-- ==== Sys2Proof/Word.lean ====
section
/-! DEFINITION. The plain word types of the block: bytes, cursors, bit counters, operation words and line levels
(spec 00_scope R9, R10, R12; 30_encoding R105). -/

namespace Sys2Proof

/-- A byte; bit 7 is the most significant (R10). -/
abbrev Byte := BitVec 8

/-- A 16-bit cursor or counter: `wr`, `idle`, `pos`, `field` (R9). -/
abbrev Word := BitVec 16

/-- A bit counter, 4 bits wide: `tx.bits`, `rx.bits` (R9). -/
abbrev BitCount := BitVec 4

/-- An operation word, 40 bits (R105). -/
abbrev OpWord := BitVec 40

/-- A line level, `0` (false) or `1` (true); also a logical bit, space (false) or mark (true) (R12). -/
abbrev Level := Bool

end Sys2Proof
end

