-- ==== Sys2Proof/Config.lean ====
section
/-! DEFINITION. The build-time parameters of the block (spec 00_scope R8), and the free values: the constants without a
body that stand for what the spec leaves open. A `Config` is plain data; `State` carries one, and no step writes it, so
that a statement about every state quantifies over every parameter set (log 4). -/

namespace Sys2Proof

/-- One entry of `RATE_TABLE`: a divisor and a compare value. Their widths are not in the source and no rule reads the
numbers (R9, R35, 93_implementation_defined K17; log 10). -/
structure RateEntry where
  divisor : Nat
  compare : Nat
  deriving DecidableEq, Repr, Inhabited

/-- The parameter set of rule R8. `RATES` is the list of keys of `rateTable`, so `RATE_TABLE` is total on it.
`HEX` is fixed by R8 and stands in Machine/Operands.lean. -/
structure Config where
  /-- `C`, the RingBuffer capacity in bytes. -/
  ringCap : Nat
  /-- `N`, the LineBuffer capacity in bytes, sentinel cell included. -/
  lineCap : Nat
  /-- `T_IDLE`, the idle-timeout threshold in poll cycles. -/
  tIdle : Nat
  /-- `TARGET_FIELD`, the comma-field index that is left-padded. -/
  targetField : Nat
  /-- `SKIP`, the cursor advance after the recomputed checksum. -/
  skip : Nat
  /-- `PLEN`, the length of each prefix; `Config.wf` ties the three prefixes to it. -/
  plen : Nat
  /-- `P_TGT`, the rewrite-target prefix. -/
  pTgt : List Byte
  /-- `P_SUP1`; `none` is "left unset" (95_test_vectors W18: nothing is suppressed). -/
  pSup1 : Option (List Byte)
  /-- `P_SUP2`; `none` is "left unset". -/
  pSup2 : Option (List Byte)
  /-- `INVERT`, the line-polarity toggle. -/
  invert : Bool
  /-- `RATES` and `RATE_TABLE`: the supported rates, each with its entry. -/
  rateTable : List (Nat × RateEntry)
  /-- `SENT`, the LineBuffer sentinel byte. -/
  sent : Byte
  /-- `STAR_EMITTED`, whether the `*` that ends the rewrite scan is transmitted. -/
  starEmitted : Bool
  /-- `PACE_DELAY`; it has no state effect and no operation reads it (D22). -/
  paceDelay : Nat
  deriving DecidableEq, Repr

/-- FREE VALUE (log 4): `RATE_TABLE`'s entry for a rate; R8: OPEN, no value is in the source. -/
opaque Config.openRateEntry : Nat → RateEntry

/-- FREE VALUE (log 4): byte `k` of suppressed prefix `n`, less one; R8: OPEN, "bytes non-zero". -/
opaque Config.openPrefixByte : Nat → Nat → Fin 255

/-- FREE VALUE (log 4): `PACE_DELAY`; R8: OPEN. -/
opaque Config.openPaceDelay : Nat

/-- FREE VALUE (log 3): what a never-written LineBuffer cell holds (20_memory R71, K10: "any value"). -/
opaque Config.powerOnLB : Nat → Byte

/-- FREE VALUE (log 3): what a never-written ring slot holds (10_state R20, R32: unspecified). -/
opaque Config.powerOnRB : Nat → Byte

/-- The open suppressed prefix number `n`: six free non-zero bytes. -/
def Config.openPrefix (n : Nat) : List Byte :=
  [0, 1, 2, 3, 4, 5].map fun k => BitVec.ofNat 8 ((Config.openPrefixByte n k).val + 1)

/-- The reference parameter set: the default column of rule R8, each OPEN entry a free constant, `INVERT` at R8's
"model default `false`". `P_TGT` is `$GPGGA`. -/
def Config.reference : Config where
  ringCap := 2
  lineCap := 450
  tIdle := 3000
  targetField := 8
  skip := 3
  plen := 6
  pTgt := [0x24#8, 0x47#8, 0x50#8, 0x47#8, 0x47#8, 0x41#8]
  pSup1 := some (Config.openPrefix 1)
  pSup2 := some (Config.openPrefix 2)
  invert := false
  rateTable := [4800, 9600, 31250, 38400].map fun r => (r, Config.openRateEntry r)
  sent := 0x00#8
  starEmitted := true
  paceDelay := Config.openPaceDelay

end Sys2Proof
end

