-- ==== Sys2Proof/Syntax.lean ====
section
/-! DEFINITION. The 19 operations of the block (spec 30_encoding R104), one constructor per row of opcode_table.json,
in the table's order. -/

namespace Sys2Proof

/-- An operation: one atomic step of one agent (R104). A rate is a number in bits per second (R106), a byte is used as
is, `line`'s operand is the new level. -/
inductive Instr where
  | init (txBaud rxBaud : Nat)
  | setbaud (txBaud rxBaud : Nat)
  | txbyte (byte : Byte)
  | rxpoll
  | txtick
  | rxtick
  | edge
  | line (level : Level)
  | enq (byte : Byte)
  | deq
  | isempty
  | begintx (byte : Byte)
  | laidle
  | laacc
  | srstart
  | srread
  | srparse
  | srend
  | sremit
  deriving DecidableEq, Repr

/-- The mnemonic of rule R104. -/
def Instr.mnemonic : Instr → String
  | .init _ _ => "INIT"
  | .setbaud _ _ => "SETBAUD"
  | .txbyte _ => "TXBYTE"
  | .rxpoll => "RXPOLL"
  | .txtick => "TXTICK"
  | .rxtick => "RXTICK"
  | .edge => "EDGE"
  | .line _ => "LINE"
  | .enq _ => "ENQ"
  | .deq => "DEQ"
  | .isempty => "ISEMPTY"
  | .begintx _ => "BEGINTX"
  | .laidle => "LAIDLE"
  | .laacc => "LAACC"
  | .srstart => "SRSTART"
  | .srread => "SRREAD"
  | .srparse => "SRPARSE"
  | .srend => "SREND"
  | .sremit => "SREMIT"

/-- The agents of rule R15. -/
inductive Agent where
  | event
  | foreground
  | environment
  | host
  deriving DecidableEq, Repr

/-- The agents that may issue an operation: the agent column of rule R104 ("either" is the event and the foreground
agent). -/
def Instr.agents : Instr → List Agent
  | .init _ _ => [.host, .foreground]
  | .setbaud _ _ => [.host, .foreground]
  | .txbyte _ => [.host, .foreground]
  | .rxpoll => [.host, .foreground]
  | .txtick => [.event]
  | .rxtick => [.event]
  | .edge => [.event]
  | .line _ => [.environment]
  | .enq _ => [.event]
  | .deq => [.foreground]
  | .isempty => [.event, .foreground]
  | .begintx _ => [.foreground]
  | .laidle => [.foreground]
  | .laacc => [.foreground]
  | .srstart => [.foreground]
  | .srread => [.foreground]
  | .srparse => [.foreground]
  | .srend => [.foreground]
  | .sremit => [.foreground]

end Sys2Proof
end

