-- ==== Sys2Proof/WellFormed.lean ====
section
/-! DEFINITION. Well-formedness: which operations can be spelled (spec 30_encoding R106), and which parameter sets the
spec allows (00_scope R8, 10_state R44). -/

namespace Sys2Proof

/-- A rate that the operation word can spell: `0..65535` (R106). -/
def spellableRate (rate : Nat) : Bool := decide (rate < 65536)

/-- An operation is well-formed when its rates can be spelled; every byte and every level is legal (R106, R108). -/
def Instr.wf : Instr → Bool
  | .init txBaud rxBaud => spellableRate txBaud && spellableRate rxBaud
  | .setbaud txBaud rxBaud => spellableRate txBaud && spellableRate rxBaud
  | .txbyte _ => true
  | .rxpoll => true
  | .txtick => true
  | .rxtick => true
  | .edge => true
  | .line _ => true
  | .enq _ => true
  | .deq => true
  | .isempty => true
  | .begintx _ => true
  | .laidle => true
  | .laacc => true
  | .srstart => true
  | .srread => true
  | .srparse => true
  | .srend => true
  | .sremit => true

/-- A prefix as rule R8 asks for it: `PLEN` bytes, none zero, none the sentinel. -/
def Config.prefixOk (c : Config) (p : List Byte) : Bool :=
  decide (p.length = c.plen) && p.all (fun b => decide (b ≠ 0#8) && decide (b ≠ c.sent))

/-- The same for a prefix that may be left unset. -/
def Config.optPrefixOk (c : Config) : Option (List Byte) → Bool
  | none => true
  | some p => c.prefixOk p

/-- The sizes of rule R8, and rule R44's `N-1+SKIP <= 65535` (written `N + SKIP <= 65536`). -/
def Config.sizesOk (c : Config) : Bool :=
  decide (1 ≤ c.ringCap) && decide (3 ≤ c.lineCap) && decide (1 ≤ c.tIdle) && decide (c.tIdle ≤ 65535)
    && decide (1 ≤ c.targetField) && decide (1 ≤ c.plen) && decide (c.lineCap + c.skip ≤ 65536)

/-- `RATES` is a set of positive integers below 65536 (R8). -/
def Config.ratesOk (c : Config) : Bool :=
  (c.rateTable.map Prod.fst).all (fun r => decide (0 < r) && spellableRate r)
    && decide (c.rateTable.map Prod.fst).Nodup

/-- The constraints of rule R8 but the pairwise difference of the prefixes. -/
def Config.wf (c : Config) : Bool :=
  c.sizesOk && c.prefixOk c.pTgt && c.optPrefixOk c.pSup1 && c.optPrefixOk c.pSup2 && c.ratesOk

/-- R8: "`P_SUP1`, `P_SUP2`, `P_TGT` pairwise different" (an unset prefix differs from every prefix). -/
def Config.prefixesDiffer (c : Config) : Bool :=
  decide (c.pSup1 ≠ some c.pTgt) && decide (c.pSup2 ≠ some c.pTgt)
    && (decide (c.pSup1 = none) || decide (c.pSup1 ≠ c.pSup2))

end Sys2Proof
end

