-- ==== Sys2Proof/Decode.lean ====
section
/-! DEFINITION. The operation word: its fields, the decoder (total, rejecting by name), the encoder, and the opcode
table as rows of mask and pattern (spec 30_encoding R104 to R108; opcode_table.json). -/

namespace Sys2Proof

/-- Why a word spells no operation (R108). The names and the order of the tests are the model's (log 9). -/
inductive Reject where
  /-- the opcode is not in rule R104 -/
  | opcode
  /-- bits 31:16 must be zero in the word's format -/
  | fieldA
  /-- must-be-zero bits of 15:0 are not zero in the word's format -/
  | fieldB
  /-- fewer than five bytes are left (`decodeBytes` only) -/
  | truncated
  deriving DecidableEq, Repr

/-- Bits 39:32 (R105). -/
def opcodeField (w : OpWord) : BitVec 8 := w.extractLsb' 32 8

/-- Bits 31:16, field `A` (R105). -/
def fieldA (w : OpWord) : Word := w.extractLsb' 16 16

/-- Bits 15:0, field `B` (R105). -/
def fieldB (w : OpWord) : Word := w.extractLsb' 0 16

/-- Format N: `A` and `B` must be 0. -/
def decodeN (w : OpWord) (i : Instr) : Except Reject Instr :=
  if fieldA w ≠ 0#16 then .error .fieldA
  else if fieldB w ≠ 0#16 then .error .fieldB
  else .ok i

/-- Format B: `A` and bits 15:8 must be 0; `byte = B[7:0]`, used as is (R106). -/
def decodeB (w : OpWord) (i : Byte → Instr) : Except Reject Instr :=
  if fieldA w ≠ 0#16 then .error .fieldA
  else if 256 ≤ (fieldB w).toNat then .error .fieldB
  else .ok (i ((fieldB w).setWidth 8))

/-- Format F: `A` and bits 15:1 must be 0; `flag = B[0]`. -/
def decodeF (w : OpWord) (i : Bool → Instr) : Except Reject Instr :=
  if fieldA w ≠ 0#16 then .error .fieldA
  else if 2 ≤ (fieldB w).toNat then .error .fieldB
  else .ok (i ((fieldB w).getLsbD 0))

/-- Format R: `txBaud = zext(A)`, `rxBaud = zext(B)`; every value is legal (R106, R108). -/
def decodeR (w : OpWord) (i : Nat → Nat → Instr) : Except Reject Instr :=
  .ok (i (fieldA w).toNat (fieldB w).toNat)

/-- The decoder: the verdict on any 40-bit word (R104, R105, R108). -/
def decode (w : OpWord) : Except Reject Instr :=
  match (opcodeField w).toNat with
  | 0x01 => decodeR w .init
  | 0x02 => decodeR w .setbaud
  | 0x03 => decodeB w .txbyte
  | 0x04 => decodeN w .rxpoll
  | 0x10 => decodeF w (fun ctx => if ctx then .rxtick else .txtick)
  | 0x11 => decodeN w .edge
  | 0x12 => decodeF w .line
  | 0x20 => decodeB w .enq
  | 0x21 => decodeN w .deq
  | 0x22 => decodeN w .isempty
  | 0x23 => decodeB w .begintx
  | 0x30 => decodeN w .laidle
  | 0x31 => decodeN w .laacc
  | 0x32 => decodeN w .srstart
  | 0x33 => decodeN w .srread
  | 0x34 => decodeN w .srparse
  | 0x35 => decodeN w .srend
  | 0x36 => decodeN w .sremit
  | _ => .error .opcode

/-- A word of the three fields: opcode in 39:32, `A` in 31:16, `B` in 15:0 (R105). -/
def opWord (opcode a b : Nat) : OpWord := BitVec.ofNat 40 (opcode * 2 ^ 32 + a * 2 ^ 16 + b)

/-- The encoder, from the same tables (R104, R105). A rate is meant to be below 65536 (`Instr.wf`). -/
def encode : Instr → OpWord
  | .init txBaud rxBaud => opWord 0x01 txBaud rxBaud
  | .setbaud txBaud rxBaud => opWord 0x02 txBaud rxBaud
  | .txbyte b => opWord 0x03 0 b.toNat
  | .rxpoll => opWord 0x04 0 0
  | .txtick => opWord 0x10 0 0
  | .rxtick => opWord 0x10 0 1
  | .edge => opWord 0x11 0 0
  | .line l => opWord 0x12 0 l.toNat
  | .enq b => opWord 0x20 0 b.toNat
  | .deq => opWord 0x21 0 0
  | .isempty => opWord 0x22 0 0
  | .begintx b => opWord 0x23 0 b.toNat
  | .laidle => opWord 0x30 0 0
  | .laacc => opWord 0x31 0 0
  | .srstart => opWord 0x32 0 0
  | .srread => opWord 0x33 0 0
  | .srparse => opWord 0x34 0 0
  | .srend => opWord 0x35 0 0
  | .sremit => opWord 0x36 0 0

/-- One row of opcode_table.json. -/
structure OpRow where
  mnemonic : String
  mask : OpWord
  pattern : OpWord
  deriving DecidableEq, Repr

/-- opcode_table.json, row by row. -/
def opcodeTable : List OpRow :=
  [⟨"INIT", 0xFF00000000, 0x0100000000⟩,
   ⟨"SETBAUD", 0xFF00000000, 0x0200000000⟩,
   ⟨"TXBYTE", 0xFFFFFFFF00, 0x0300000000⟩,
   ⟨"RXPOLL", 0xFFFFFFFFFF, 0x0400000000⟩,
   ⟨"TXTICK", 0xFFFFFFFFFF, 0x1000000000⟩,
   ⟨"RXTICK", 0xFFFFFFFFFF, 0x1000000001⟩,
   ⟨"EDGE", 0xFFFFFFFFFF, 0x1100000000⟩,
   ⟨"LINE", 0xFFFFFFFFFE, 0x1200000000⟩,
   ⟨"ENQ", 0xFFFFFFFF00, 0x2000000000⟩,
   ⟨"DEQ", 0xFFFFFFFFFF, 0x2100000000⟩] ++
  [⟨"ISEMPTY", 0xFFFFFFFFFF, 0x2200000000⟩,
   ⟨"BEGINTX", 0xFFFFFFFF00, 0x2300000000⟩,
   ⟨"LAIDLE", 0xFFFFFFFFFF, 0x3000000000⟩,
   ⟨"LAACC", 0xFFFFFFFFFF, 0x3100000000⟩,
   ⟨"SRSTART", 0xFFFFFFFFFF, 0x3200000000⟩,
   ⟨"SRREAD", 0xFFFFFFFFFF, 0x3300000000⟩,
   ⟨"SRPARSE", 0xFFFFFFFFFF, 0x3400000000⟩,
   ⟨"SREND", 0xFFFFFFFFFF, 0x3500000000⟩,
   ⟨"SREMIT", 0xFFFFFFFFFF, 0x3600000000⟩]

/-- A word belongs to a row when its fixed bits are the row's. -/
def OpRow.matches (r : OpRow) (w : OpWord) : Bool := decide (w &&& r.mask = r.pattern)

/-- Five bytes as a word, in the order their ten hex digits are written, most significant first (R105; the order of
bytes is the model's, log 9). -/
def wordOfBytes (b4 b3 b2 b1 b0 : Byte) : OpWord :=
  BitVec.ofNat 40
    (b4.toNat * 2 ^ 32 + b3.toNat * 2 ^ 24 + b2.toNat * 2 ^ 16 + b1.toNat * 2 ^ 8 + b0.toNat)

/-- Decoding total on any bytes: the first five as a word, and the rest of the list. -/
def decodeBytes : List Byte → Except Reject (Instr × List Byte)
  | b4 :: b3 :: b2 :: b1 :: b0 :: rest => (decode (wordOfBytes b4 b3 b2 b1 b0)).map (fun i => (i, rest))
  | _ => .error .truncated

/-- The host's view of the decoder: the operation read from a word whose bits are `w`, numbered as the table numbers
them (bit 0 the least significant of the one 40-bit word); nothing above bit 39. -/
def decodeTableWord (nbits w : Nat) : Option Instr :=
  if nbits ≤ 40 ∧ w < 2 ^ 40 then (decode (BitVec.ofNat 40 w)).toOption else none

end Sys2Proof
end

