-- ==== Sys2Proof/Machine/Levels.lean ====
section
/-! DEFINITION. Line levels and logical bits under `INVERT` (spec 00_scope R12). -/

namespace Sys2Proof.Machine

/-- `level(bit) = bit xor INVERT` (R12). -/
def levelOf (c : Config) (bit : Bool) : Level := bit ^^ c.invert

/-- `logic(level) = level xor INVERT` (R12). -/
def logicOf (c : Config) (level : Level) : Bool := level ^^ c.invert

/-- `MARKLVL`: the idle level, the stop-bit level, the level of a 1 (R12). -/
def markLevel (c : Config) : Level := levelOf c true

/-- `SPACELVL`: the start-bit level, the level of a 0 (R12). -/
def spaceLevel (c : Config) : Level := levelOf c false

end Sys2Proof.Machine
end

