-- ==== Sys2Proof/Machine/State.lean ====
section
/-! DEFINITION. The state of the block: the 28 fields of spec 10_state R20, grouped by component, and four fields of the
model's own (`par`, `out`, `txLog`, `sched`); the reasons a step can stop; the state after reset (R53). -/

namespace Sys2Proof.Machine

/-- A byte memory: (index, byte) pairs, indices strictly rising, one entry for each cell ever written. An unlisted
cell has no byte of its own; a read of it gives a free value (log 3). -/
abbrev Memory := List Host.Cell

/-- The Transmitter: BitSlot, the transmit line and the transmit timer (R21 to R25). -/
structure Transmitter where
  /-- `tx.sr` (R21) -/
  sr : Byte
  /-- `tx.bits` (R22) -/
  bits : BitCount
  /-- `tx.busy` (R23) -/
  busy : Bool
  /-- `tx_line` (R24) -/
  line : Level
  /-- `txt.armed` (R25) -/
  armed : Bool
  deriving DecidableEq, Repr

/-- The delay the receive channel was last armed with (R30). -/
inductive RxDelay where
  | one
  | oneHalf
  deriving DecidableEq, Repr

/-- The Receiver: RxAssembly, the edge detector and the receive timer (R26 to R30). -/
structure Receiver where
  /-- `rx.sr` (R26) -/
  sr : Byte
  /-- `rx.bits` (R27) -/
  bits : BitCount
  /-- `rx.busy` (R28) -/
  busy : Bool
  /-- `edge_en` (R29) -/
  edgeEn : Bool
  /-- `rxt.armed` (R30) -/
  armed : Bool
  /-- `rxt.delay` (R30) -/
  delay : RxDelay
  deriving DecidableEq, Repr

/-- The RingBuffer: slots `RB[0..C-1]`, `rb.head`, `rb.tail`, `rb.count` (R32 to R34). -/
structure Ring where
  cells : Memory
  head : Nat
  tail : Nat
  count : Nat
  deriving DecidableEq, Repr

/-- `cfg.tx`, `cfg.rx`: none, or a `RATE_TABLE` entry (R35). -/
structure Baud where
  tx : Option RateEntry
  rx : Option RateEntry
  deriving DecidableEq, Repr

/-- `fg.state` (R37). -/
inductive FgState where
  | laIdle
  | laAcc
  | srStart
  | srRead
  | srParse
  | srEnd
  deriving DecidableEq, Repr

/-- The LineAssembler's data: `LB[0..N-1]`, `wr`, `idle` (R38 to R40). -/
structure LineBuffer where
  cells : Memory
  wr : Word
  idle : Word
  deriving DecidableEq, Repr

/-- The SentenceRewriter's data: `pos`, `field`, `ck`, `txmark`, `emitq` (R41 to R45). -/
structure Scan where
  pos : Word
  field : Word
  ck : Byte
  txmark : Bool
  emitq : List Byte
  deriving DecidableEq, Repr

/-- What an operation returns to the agent that issued it (30_encoding R107). -/
inductive Result where
  /-- no value -/
  | unit
  /-- the operation was not enabled: it took no step and its agent waits (00_scope R13 "hold"; log 6) -/
  | held
  /-- the bool of ENQ and ISEMPTY -/
  | bool (b : Bool)
  /-- the `none` or `some b` of DEQ and RXPOLL -/
  | byte (r : Option Byte)
  /-- the pair `tx_ok`, `rx_ok` of INIT and SETBAUD -/
  | rates (txOk rxOk : Bool)
  deriving DecidableEq, Repr

/-- The state. Fields `tx` to `scan` are rule R20's; the other four are the model's own. -/
structure State where
  /-- MODEL'S OWN: the parameter set of 00_scope R8; no step writes it (log 4) -/
  par : Config
  tx : Transmitter
  rx : Receiver
  /-- `rx_line` (R31) -/
  rxLine : Level
  ring : Ring
  cfg : Baud
  /-- `inited` (R36) -/
  inited : Bool
  /-- `fg.state` (R37) -/
  fg : FgState
  buf : LineBuffer
  scan : Scan
  /-- MODEL'S OWN: the result of the latest operation (R107; log 7) -/
  out : Result
  /-- MODEL'S OWN: the transmit log, the bytes loaded by BEGINTX, oldest first (R52, R146; log 7) -/
  txLog : List Byte
  /-- MODEL'S OWN: the schedule still to be taken, as operation words (R16, R52; log 5) -/
  sched : List OpWord
  deriving DecidableEq, Repr

/-- The two directions of the facade. -/
inductive Direction where
  | tx
  | rx
  deriving DecidableEq, Repr

/-- Why the machine stops with a fault. Both are safe: the spec gives an access outside a memory no meaning (20_memory
R78), and no run from reset makes one (log 8). -/
inductive Fault where
  /-- raised by LAIDLE and LAACC when a cell to be written lies outside `LB[0..N-1]`; safe -/
  | lineBufferRange
  /-- raised by ENQ, DEQ, RXPOLL, RXTICK, LAIDLE and LAACC when a ring index lies outside `RB[0..C-1]`; safe -/
  | ringRange
  deriving DecidableEq, Repr

/-- Why a step has no meaning: the refusals of the spec (00_scope R13, 93_implementation_defined K11). All are safe. -/
inductive Refusal where
  /-- no meaning written yet; no arm of `exec` raises it; safe -/
  | notModelled (mnemonic : String)
  /-- raised by every operation that rule R166 refuses before INIT; safe -/
  | beforeInit
  /-- raised by a second INIT (R161, R258); safe -/
  | secondInit
  /-- raised by BEGINTX while `tx.busy` (R141); safe -/
  | whileSending
  /-- raised where the timer of a direction without configuration would be armed (R166): BEGINTX, TXBYTE, SREMIT
  for `tx`, EDGE and a firing LINE for `rx`; safe -/
  | unconfigured (dir : Direction)
  /-- raised by RXTICK with the channel armed and `rx.busy` false (R152, D10); safe -/
  | tickWhileWaiting
  /-- raised by the step on a word that spells no operation (R108); safe -/
  | invalidWord (why : Reject)
  deriving DecidableEq, Repr

/-- The outcome of an operation or a step. -/
abbrev Outcome := Host.Outcome State Fault Refusal

/-- The state after hardware reset of a block built with the parameters `c` (R53, R240). Fields the spec leaves
unspecified hold the values named in logs 1 and 2; memories are unlisted (log 3). -/
def State.powerOn (c : Config) : State where
  par := c
  tx := { sr := 0#8, bits := 0#4, busy := false, line := markLevel c, armed := false }
  rx := { sr := 0#8, bits := 0#4, busy := false, edgeEn := false, armed := false, delay := .one }
  rxLine := markLevel c
  ring := { cells := [], head := 0, tail := 0, count := 0 }
  cfg := { tx := none, rx := none }
  inited := false
  fg := .laIdle
  buf := { cells := [], wr := 0#16, idle := 0#16 }
  scan := { pos := 0#16, field := 0#16, ck := 0#8, txmark := false, emitq := [] }
  out := .unit
  txLog := []
  sched := []

/-- The state after hardware reset, for the reference parameters (R53; log 4). -/
def State.reset : State := State.powerOn Config.reference

end Sys2Proof.Machine
end

