-- ==== Sys2Proof/Machine/Ops.lean ====
section
/-! DEFINITION. The shared operations over state and memory: setters, the byte memories, the ring, the Transmitter and
Receiver bodies that several operations perform, the gates and answers. There is no exception entry or return on this
hardware (spec 60_exceptions R200, R216, R217); what stands in its place is the start-edge handler body, which EDGE and
LINE share (R151, R153). -/

namespace Sys2Proof.Machine

/-! ### Setters, one per field of `State` but `par` -/

def State.withTx (s : State) (v : Transmitter) : State := { s with tx := v }
def State.withRx (s : State) (v : Receiver) : State := { s with rx := v }
def State.withRxLine (s : State) (v : Level) : State := { s with rxLine := v }
def State.withRing (s : State) (v : Ring) : State := { s with ring := v }
def State.withCfg (s : State) (v : Baud) : State := { s with cfg := v }
def State.withInited (s : State) (v : Bool) : State := { s with inited := v }
def State.withFg (s : State) (v : FgState) : State := { s with fg := v }
def State.withBuf (s : State) (v : LineBuffer) : State := { s with buf := v }
def State.withScan (s : State) (v : Scan) : State := { s with scan := v }
def State.withOut (s : State) (v : Result) : State := { s with out := v }
def State.withTxLog (s : State) (v : List Byte) : State := { s with txLog := v }
def State.withSched (s : State) (v : List OpWord) : State := { s with sched := v }

/-! ### Byte memories (20_memory R70 to R72, R77) -/

/-- The byte a cell was last written with, if it was ever written. -/
def Memory.lookup : Memory → Nat → Option Byte
  | [], _ => none
  | (k, v) :: m, a => if a = k then some v else Memory.lookup m a

/-- A read: an unlisted cell gives its free value (log 3). -/
def Memory.read (free : Nat → Byte) (m : Memory) (a : Nat) : Byte := (Memory.lookup m a).getD (free a)

/-- A write, keeping the indices strictly rising. -/
def Memory.write : Memory → Nat → Byte → Memory
  | [], a, b => [(a, b)]
  | (k, v) :: m, a, b =>
    if a < k then (a, b) :: (k, v) :: m
    else if a = k then (a, b) :: m
    else (k, v) :: Memory.write m a b

/-- Every index is at least `lo` and the indices rise strictly. -/
def Memory.risingFrom : Nat → Memory → Bool
  | _, [] => true
  | lo, (k, _) :: m => decide (lo ≤ k) && Memory.risingFrom (k + 1) m

/-- The canonical form of a memory (log 3). -/
def Memory.wf (m : Memory) : Bool := Memory.risingFrom 0 m

/-- Every listed index is a cell of a memory of `n` cells. -/
def Memory.within (n : Nat) (m : Memory) : Bool := m.all (fun c => decide (c.1 < n))

/-- `MemRead(LB, i, 1)` (R13). The callers test the range first (R78). -/
def lbRead (s : State) (i : Nat) : Byte := Memory.read Config.powerOnLB s.buf.cells i

/-- `MemRead(RB, i, 1)` (R13). -/
def rbRead (s : State) (i : Nat) : Byte := Memory.read Config.powerOnRB s.ring.cells i

/-- `MemWrite(LB, i, 1, b)`; an index outside `0..N-1` is a fault (log 8). -/
def lbWrite (s : State) (i : Nat) (b : Byte) : Except Fault State :=
  if i < s.par.lineCap then .ok (s.withBuf { s.buf with cells := Memory.write s.buf.cells i b })
  else .error .lineBufferRange

/-! ### The ring (40_ringbuffer R131 to R134) -/

/-- The successor of a ring index: `(i + 1) mod C` (R72). -/
def ringNext (c : Config) (i : Nat) : Nat := (i + 1) % c.ringCap

/-- The body of `ENQ` (R131): the bool result and the state. On a full ring nothing changes (condition X1). -/
def enqueue (s : State) (b : Byte) : Except Fault (Bool × State) :=
  if s.ring.count = s.par.ringCap then .ok (false, s)
  else if s.ring.tail < s.par.ringCap then
    .ok (true, s.withRing
      { s.ring with
        cells := Memory.write s.ring.cells s.ring.tail b
        tail := ringNext s.par s.ring.tail
        count := s.ring.count + 1 })
  else .error .ringRange

/-- The body of `DEQ` (R132): `none` or the oldest byte, and the state. -/
def dequeue (s : State) : Except Fault (Option Byte × State) :=
  if s.ring.count = 0 then .ok (none, s)
  else if s.ring.head < s.par.ringCap then
    .ok (some (rbRead s s.ring.head), s.withRing
      { s.ring with head := ringNext s.par s.ring.head, count := s.ring.count - 1 })
  else .error .ringRange

/-- The occupied window of the ring, oldest first (10_state R58). -/
def ringWindow (s : State) : List Byte :=
  (List.range s.ring.count).map fun k => rbRead s ((s.ring.head + k) % s.par.ringCap)

/-! ### Answers -/

/-- The operation took its step; the result goes to its agent (R107). -/
def answer (s : State) (r : Result) : Outcome := .next (s.withOut r)

/-- The operation is not enabled: no field of rule R20 changes (R13 "hold"; log 6). What follows in the schedule still
runs (log 20). -/
def held (s : State) : Outcome := answer s .held

/-- Continue after an access that can lie outside its memory. -/
def orFault {α : Type} (r : Except Fault α) (k : α → Outcome) : Outcome :=
  match r with
  | .error f => .fault f
  | .ok a => k a

/-! ### Gates (43_softuart_facade R166) -/

/-- Refuse before INIT. -/
def needInit (s : State) (k : Outcome) : Outcome := if s.inited then k else .refused .beforeInit

/-- Refuse when `cfg.tx` is none. -/
def needTxConfig (s : State) (k : Outcome) : Outcome :=
  if s.cfg.tx.isSome then k else .refused (.unconfigured .tx)

/-- Refuse when `cfg.rx` is none. -/
def needRxConfig (s : State) (k : Outcome) : Outcome :=
  if s.cfg.rx.isSome then k else .refused (.unconfigured .rx)

/-! ### The Transmitter (41_transmitter R141, R142) -/

/-- The five assignments of `BEGINTX`: start-bit level, BitSlot loaded, timer armed. -/
def Transmitter.load (c : Config) (b : Byte) : Transmitter :=
  { sr := b, bits := 8#4, busy := true, line := spaceLevel c, armed := true }

/-- The effect of `BEGINTX b` once it is allowed; the byte enters the transmit log (R146). TXBYTE, BEGINTX and SREMIT
perform it. -/
def beginFrame (s : State) (b : Byte) : State :=
  (s.withTx (Transmitter.load s.par b)).withTxLog (s.txLog ++ [b])

/-- The body of the transmit-tick handler (R142). -/
def Transmitter.tick (c : Config) (t : Transmitter) : Transmitter :=
  if t.busy = false then { t with armed := false }
  else if t.bits ≠ 0#4 then
    { t with line := levelOf c (t.sr.getLsbD 0), sr := t.sr >>> 1, bits := t.bits - 1#4, armed := true }
  else { t with line := markLevel c, busy := false, armed := false }

/-! ### The Receiver (42_receiver R151, R152) -/

/-- The six assignments of the edge handler. -/
def Receiver.start (r : Receiver) : Receiver :=
  { r with edgeEn := false, armed := true, delay := .oneHalf, bits := 0#4, sr := 0#8, busy := true }

/-- The body of the edge handler, performed by EDGE and by a firing LINE (R151, R153). -/
def startEdge (s : State) : Outcome := needRxConfig s (answer (s.withRx s.rx.start) .unit)

/-- Shift right, then set bit 7 if the sample is mark; count the bit (R152, R281). -/
def Receiver.sample (c : Config) (level : Level) (r : Receiver) : Receiver :=
  { r with
    sr := if logicOf c level then (r.sr >>> 1) ||| 0x80#8 else r.sr >>> 1
    bits := r.bits + 1#4 }

/-- Re-arm for one more bit period (R152, `rx.bits < 8`). -/
def Receiver.rearm (r : Receiver) : Receiver := { r with armed := true, delay := .one }

/-- Disarm and wait for the next start edge (R152, `rx.bits = 8`). -/
def Receiver.finish (r : Receiver) : Receiver := { r with armed := false, edgeEn := true, busy := false }

/-! ### The LineAssembler (44_line_assembler R171 to R173) -/

/-- Store a byte at cursor `at_`, advance the cursor, keep the sentinel there, clear the idle counter. LAIDLE performs
it at 0, LAACC at `wr`. -/
def storeByte (s : State) (at_ : Word) (b : Byte) : Except Fault State :=
  (lbWrite s at_.toNat b).bind fun s1 =>
    (lbWrite s1 (at_ + 1#16).toNat s.par.sent).map fun s2 =>
      s2.withBuf { s2.buf with wr := at_ + 1#16, idle := 0#16 }

/-- The handoff to the rewriter (R173). -/
def handOff (s : State) : State := (s.withScan { s.scan with pos := 0#16 }).withFg .srStart

/-- The end tests of a poll cycle: `wr = N-1` or `idle = T_IDLE` (R172). -/
def cycleEnds (s : State) : Bool :=
  decide (s.buf.wr.toNat + 1 = s.par.lineCap) || decide (s.buf.idle.toNat = s.par.tIdle)

/-- Hand off when the cycle ends. -/
def endCycle (s : State) : State := if cycleEnds s then handOff s else s

end Sys2Proof.Machine
end

