-- ==== Sys2Proof/Machine/Operands.lean ====
section
/-! DEFINITION. Operand forms and byte constants: rate resolution (spec 43_softuart_facade R163), the ASCII codes
(00_scope R11), the hex-digit table and the checksum trailer (30_encoding R102), the serial frame (30_encoding R101),
the 9-bit spelling of a byte result (R107). -/

namespace Sys2Proof.Machine

/-- `Resolve(dir, rate)`: the new `cfg.dir` from the previous one, and whether the rate is supported (R163). -/
def resolveRate (c : Config) (rate : Nat) (previous : Option RateEntry) : Option RateEntry × Bool :=
  match c.rateTable.lookup rate with
  | some e => (some e, true)
  | none => (previous, false)

/-- Both directions resolved, each on its own (R161, R162). -/
def resolveBoth (s : State) (txBaud rxBaud : Nat) : Baud :=
  { tx := (resolveRate s.par txBaud s.cfg.tx).1, rx := (resolveRate s.par rxBaud s.cfg.rx).1 }

/-- The result `tx_ok`, `rx_ok` (R107). -/
def resolveResult (s : State) (txBaud rxBaud : Nat) : Result :=
  .rates (resolveRate s.par txBaud s.cfg.tx).2 (resolveRate s.par rxBaud s.cfg.rx).2

/-! ASCII codes (R11). -/

def chDollar : Byte := 0x24#8
def chStar : Byte := 0x2A#8
def chComma : Byte := 0x2C#8
def chZero : Byte := 0x30#8
def chNine : Byte := 0x39#8
def chLF : Byte := 0x0A#8
def chCR : Byte := 0x0D#8

/-- `HEX`: 0..9 to 30..39 hex, 10..15 to 41..46 hex (R102). -/
def hexDigit (n : BitVec 4) : Byte :=
  if n.toNat < 10 then BitVec.ofNat 8 (0x30 + n.toNat) else BitVec.ofNat 8 (0x41 + (n.toNat - 10))

/-- The trailer: `HEX[ck[7:4]]`, `HEX[ck[3:0]]`, carriage return (R102). -/
def trailer (ck : Byte) : List Byte := [hexDigit (ck.extractLsb' 4 4), hexDigit (ck.extractLsb' 0 4), chCR]

/-- The level of slot `k` of the frame of `b`: start bit, eight data bits, stop bit (R101). -/
def frameLevel (c : Config) (b : Byte) (k : Nat) : Level :=
  if k = 0 then spaceLevel c else if k ≤ 8 then levelOf c (b.getLsbD (k - 1)) else markLevel c

/-- The ten levels of a frame, slot 0 first (R100, R101). -/
def frameLevels (c : Config) (b : Byte) : List Level := (List.range 10).map (frameLevel c b)

/-- A byte result spelled in 9 bits, the valid bit above the byte, `b = 0` when there is none (R107). -/
def spellByteResult : Option Byte → BitVec 9
  | none => 0#9
  | some b => BitVec.ofNat 9 (256 + b.toNat)

end Sys2Proof.Machine
end

