-- ==== Sys2Proof/Machine/Flags.lean ====
section
/-! DEFINITION. The tests the operations make. The block has no arithmetic condition codes (spec 10_state R47); what
stands in their place are the enabling test of the sequencer (30_encoding R112) and the rewriter's predicates
(45_sentence_rewriter R181, R188). `N - 1` is never formed: `p >= N-1` is written `N <= p + 1`, `p <= N-1` is written
`p < N` (the same for `N >= 1`). -/

namespace Sys2Proof.Machine

/-- `isdigit(c)` (R11). -/
def isDigit (c : Byte) : Bool := decide (chZero.toNat ≤ c.toNat) && decide (c.toNat ≤ chNine.toNat)

/-- `AtEnd(p)`: at the capacity boundary, or at the sentinel byte; `LB` is read only below the boundary (R181). -/
def atEnd (s : State) (p : Nat) : Bool := decide (s.par.lineCap ≤ p + 1) || decide (lbRead s p = s.par.sent)

/-- `Match(p, P)`: bytes compared in ascending order, an index above `N-1` counts as a failure (R181). -/
def matchAt (s : State) : Nat → List Byte → Bool
  | _, [] => true
  | p, b :: bs => decide (p < s.par.lineCap) && decide (lbRead s p = b) && matchAt s (p + 1) bs

/-- A match with a prefix that may be left unset; an unset one matches nothing (95_test_vectors W18). -/
def matchOpt (s : State) (p : Nat) : Option (List Byte) → Bool
  | none => false
  | some bs => matchAt s p bs

/-- `Match(p, P_SUP1) or Match(p, P_SUP2)` (R182). -/
def suppressedAt (s : State) (p : Nat) : Bool := matchOpt s p s.par.pSup1 || matchOpt s p s.par.pSup2

/-- `Pad(p)`, given the field index after this step's update: the byte at `p` is a one-digit field `TARGET_FIELD`
(R188). -/
def padAt (s : State) (field : Word) (p : Nat) : Bool :=
  decide (field.toNat = s.par.targetField)
    && (decide (1 ≤ p) && decide (lbRead s (p - 1) = chComma))
    && isDigit (lbRead s p)
    && (decide (p + 1 < s.par.lineCap) && decide (lbRead s (p + 1) = chComma))

/-- `fg.state` is one of the rewriter's states. -/
def FgState.inRewriter : FgState → Bool
  | .laIdle => false
  | .laAcc => false
  | .srStart => true
  | .srRead => true
  | .srParse => true
  | .srEnd => true

/-- The one sequencer operation attached to a control state with `emitq` empty (R112). -/
def FgState.operation : FgState → Instr
  | .laIdle => .laidle
  | .laAcc => .laacc
  | .srStart => .srstart
  | .srRead => .srread
  | .srParse => .srparse
  | .srEnd => .srend

/-- The sequencer operation attached to the state: with `emitq` non-empty SREMIT in any `SR_*` state and nothing in the
others (R112, R45; log 9), with `emitq` empty that of `fg.state`. SREMIT may still hold on `tx.busy`. -/
def attachedOp (s : State) : Option Instr :=
  match s.scan.emitq with
  | [] => some s.fg.operation
  | _ :: _ => if s.fg.inRewriter then some .sremit else none

/-- The sequencer operation that can step, if any (R112): the attached one, unless it is SREMIT and `tx.busy`. That an
SREMIT which holds does not count as enabled is the model's reading (log 19). -/
def enabledOp (s : State) : Option Instr :=
  match attachedOp s with
  | none => none
  | some i => if i = .sremit ∧ s.tx.busy = true then none else some i

/-- The gate of a sequencer operation: refused before INIT (R166), held unless it is the attached one (R112). -/
def sequencerGate (i : Instr) (s : State) (k : Outcome) : Outcome :=
  needInit s (if attachedOp s = some i then k else held s)

end Sys2Proof.Machine
end

