-- ==== Sys2Proof/Machine/Assembler.lean ====
section
/-! DEFINITION. The LineAssembler operations LAIDLE and LAACC (spec 44_line_assembler R170 to R178). -/

namespace Sys2Proof.Machine

/-- `LAIDLE` (R171): one poll; the first byte of a cycle goes to cell 0 and the sequencer to `LA_Acc`. -/
def execLaidle (s : State) : Outcome :=
  sequencerGate .laidle s (orFault (dequeue s) fun r =>
    match r.1 with
    | none => answer r.2 .unit
    | some b => orFault (storeByte r.2 0#16 b) fun s1 => answer (s1.withFg .laAcc) .unit)

/-- One more poll cycle with no byte (R172). -/
def countIdle (s : State) : State := s.withBuf { s.buf with idle := s.buf.idle + 1#16 }

/-- `LAACC` (R172): one poll; a byte is appended at `wr`, no byte is counted; then both end tests. -/
def execLaacc (s : State) : Outcome :=
  sequencerGate .laacc s (orFault (dequeue s) fun r =>
    match r.1 with
    | none => answer (endCycle (countIdle r.2)) .unit
    | some b => orFault (storeByte r.2 r.2.buf.wr b) fun s1 => answer (endCycle s1) .unit)

end Sys2Proof.Machine
end

