-- ==== Sys2Proof/Machine/Facade.lean ====
section
/-! DEFINITION. The SoftUart facade: INIT, SETBAUD, TXBYTE, RXPOLL (spec 43_softuart_facade R160 to R167). -/

namespace Sys2Proof.Machine

/-- The assignments of `INIT` (R161). -/
def initialise (s : State) (txBaud rxBaud : Nat) : State :=
  { s with
    cfg := resolveBoth s txBaud rxBaud
    tx := { s.tx with line := markLevel s.par, busy := false, armed := false }
    rx := { s.rx with busy := false, armed := false, edgeEn := true }
    ring := { s.ring with head := 0, tail := 0, count := 0 }
    inited := true }

/-- `INIT txBaud, rxBaud` (R161): a second one is refused. -/
def execInit (txBaud rxBaud : Nat) (s : State) : Outcome :=
  if s.inited then .refused .secondInit
  else answer (initialise s txBaud rxBaud) (resolveResult s txBaud rxBaud)

/-- `SETBAUD txBaud, rxBaud` (R162): `cfg` only, at any time after INIT. -/
def execSetbaud (txBaud rxBaud : Nat) (s : State) : Outcome :=
  needInit s (answer (s.withCfg (resolveBoth s txBaud rxBaud)) (resolveResult s txBaud rxBaud))

/-- `TXBYTE byte` (R164): holds while `tx.busy`, then `BEGINTX byte`. -/
def execTxbyte (byte : Byte) (s : State) : Outcome :=
  needInit s (needTxConfig s (if s.tx.busy then held s else answer (beginFrame s byte) .unit))

/-- `RXPOLL` (R165): one `DEQ`; never holds. -/
def execRxpoll (s : State) : Outcome :=
  needInit s (orFault (dequeue s) fun r => answer r.2 (.byte r.1))

end Sys2Proof.Machine
end

