-- ==== Sys2Proof/Machine/ReceiverOps.lean ====
section
/-! DEFINITION. The Receiver operations EDGE, RXTICK and LINE (spec 42_receiver R150 to R159). -/

namespace Sys2Proof.Machine

/-- `EDGE` (R151): enabled exactly when `inited` and `edge_en`; refused then if `cfg.rx` is none. -/
def execEdge (s : State) : Outcome := if s.inited && s.rx.edgeEn then startEdge s else held s

/-- `RXTICK` (R152): enabled exactly when `rxt.armed`; refused then if `rx.busy` is false. The eighth tick enqueues the
byte (the bool of the enqueue is discarded), and waits for the next start edge. -/
def execRxtick (s : State) : Outcome :=
  if s.rx.armed = false then held s
  else if s.rx.busy = false then .refused .tickWhileWaiting
  else
    let r := s.rx.sample s.par s.rxLine
    if r.bits.toNat < 8 then answer (s.withRx r.rearm) .unit
    else orFault (enqueue s r.sr) fun q => answer (q.2.withRx r.finish) .unit

/-- The new level is a start edge the detector reacts to: enabled, and mark to space (R153, R213). -/
def edgeFires (s : State) (level : Level) : Bool :=
  s.inited && s.rx.edgeEn && decide (s.rxLine = markLevel s.par) && decide (level = spaceLevel s.par)

/-- `LINE l` (R153): always enabled; a start edge performs the edge handler in the same step. -/
def execLine (level : Level) (s : State) : Outcome :=
  if edgeFires s level then startEdge (s.withRxLine level) else answer (s.withRxLine level) .unit

end Sys2Proof.Machine
end

