-- ==== Sys2Proof/Machine/Rewriter.lean ====
section
/-! DEFINITION. The SentenceRewriter operations SRSTART, SRREAD, SRPARSE, SREND, SREMIT (spec 45_sentence_rewriter R180
to R196). -/

namespace Sys2Proof.Machine

/-- The classification of `StartLine` (R182); `pos` is not changed. -/
def classifyLine (s : State) : State :=
  let p := s.scan.pos.toNat
  if atEnd s p then s.withFg .srEnd
  else if suppressedAt s p then (s.withScan { s.scan with txmark := false }).withFg .srRead
  else if matchAt s p s.par.pTgt then (s.withScan { s.scan with field := 0#16, ck := 0#8 }).withFg .srParse
  else (s.withScan { s.scan with txmark := true }).withFg .srRead

/-- `SRSTART` (R182). -/
def execSrstart (s : State) : Outcome := sequencerGate .srstart s (answer (classifyLine s) .unit)

/-- One byte of a passed-through or suppressed line (R183). -/
def readByte (s : State) : State :=
  if atEnd s s.scan.pos.toNat then s.withFg .srStart
  else
    let c := lbRead s s.scan.pos.toNat
    (s.withScan
      { s.scan with
        emitq := if s.scan.txmark then [c] else s.scan.emitq
        pos := s.scan.pos + 1#16 }).withFg (if c = chLF then .srStart else s.fg)

/-- `SRREAD` (R183). -/
def execSrread (s : State) : Outcome := sequencerGate .srread s (answer (readByte s) .unit)

/-- `Finish` (R185): the trailer joins the emit queue, the cursor skips, back to `StartLine`. -/
def finishRewrite (s : State) : State :=
  (s.withScan
    { s.scan with
      emitq := s.scan.emitq ++ trailer s.scan.ck
      pos := s.scan.pos + BitVec.ofNat 16 s.par.skip }).withFg .srStart

/-- The step past the `*` that stops the scan, before `Finish` (R184). -/
def passStar (s : State) : State :=
  s.withScan
    { s.scan with
      emitq := if s.par.starEmitted then [chStar] else s.scan.emitq
      pos := s.scan.pos + 1#16 }

/-- Any other byte `c` of the sentence: count a comma, fold all but `$`, pad a one-digit target field (R184, R188). -/
def parseByte (s : State) (c : Byte) : State :=
  let field := if c = chComma then s.scan.field + 1#16 else s.scan.field
  let ck := if c = chDollar then s.scan.ck else s.scan.ck ^^^ c
  let pad := padAt s field s.scan.pos.toNat
  s.withScan
    { s.scan with
      field := field
      ck := if pad then ck ^^^ chZero else ck
      emitq := if pad then [chZero, c] else [c]
      pos := s.scan.pos + 1#16 }

/-- One byte of the rewrite-target sentence, or its end (R184). -/
def parseStep (s : State) : State :=
  if atEnd s s.scan.pos.toNat then finishRewrite s
  else
    let c := lbRead s s.scan.pos.toNat
    if c = chStar then finishRewrite (passStar s) else parseByte s c

/-- `SRPARSE` (R184). -/
def execSrparse (s : State) : Outcome := sequencerGate .srparse s (answer (parseStep s) .unit)

/-- `SREND` (R186). -/
def execSrend (s : State) : Outcome := sequencerGate .srend s (answer (s.withFg .laIdle) .unit)

/-- The queue without its first byte (R187). -/
def dropEmitted (s : State) : State := s.withScan { s.scan with emitq := s.scan.emitq.tail }

/-- `SREMIT` (R187): refused with `cfg.tx` none, holds while `tx.busy`, else `BEGINTX (hd emitq)`. -/
def execSremit (s : State) : Outcome :=
  sequencerGate .sremit s (needTxConfig s
    (if s.tx.busy then held s else answer (beginFrame (dropEmitted s) (s.scan.emitq.headD 0#8)) .unit))

end Sys2Proof.Machine
end

