-- ==== Sys2Proof/Machine/RingBuffer.lean ====
section
/-! DEFINITION. The RingBuffer operations ENQ, DEQ, ISEMPTY (spec 40_ringbuffer R130 to R135). -/

namespace Sys2Proof.Machine

/-- `ENQ byte` (R131): always enabled; true if stored, false if dropped because full. -/
def execEnq (byte : Byte) (s : State) : Outcome := orFault (enqueue s byte) fun r => answer r.2 (.bool r.1)

/-- `DEQ` (R132): always enabled; `none` on an empty ring. -/
def execDeq (s : State) : Outcome := orFault (dequeue s) fun r => answer r.2 (.byte r.1)

/-- `ISEMPTY` (R133): always enabled; writes no state. -/
def execIsempty (s : State) : Outcome := answer s (.bool (decide (s.ring.count = 0)))

end Sys2Proof.Machine
end

