-- ==== Sys2Proof/Machine/TransmitterOps.lean ====
section
/-! DEFINITION. The Transmitter operations BEGINTX and TXTICK (spec 41_transmitter R140 to R147). -/

namespace Sys2Proof.Machine

/-- `BEGINTX byte` (R141): refused before INIT, with `cfg.tx` none, and while `tx.busy`. -/
def execBegintx (byte : Byte) (s : State) : Outcome :=
  needInit s (needTxConfig s
    (if s.tx.busy then .refused .whileSending else answer (beginFrame s byte) .unit))

/-- `TXTICK` (R142): enabled exactly when `txt.armed`. -/
def execTxtick (s : State) : Outcome :=
  if s.tx.armed then answer (s.withTx (s.tx.tick s.par)) .unit else held s

end Sys2Proof.Machine
end

