-- ==== Sys2Proof/Machine/Dispatch.lean ====
section
/-! DEFINITION. The dispatch: one arm per operation of spec 30_encoding R104. -/

namespace Sys2Proof.Machine

def exec (i : Instr) (s : State) : Host.Outcome State Fault Refusal :=
  match i with
  | .init txBaud rxBaud => Sys2Proof.Machine.execInit txBaud rxBaud s
  | .setbaud txBaud rxBaud => Sys2Proof.Machine.execSetbaud txBaud rxBaud s
  | .txbyte byte => Sys2Proof.Machine.execTxbyte byte s
  | .rxpoll => Sys2Proof.Machine.execRxpoll s
  | .txtick => Sys2Proof.Machine.execTxtick s
  | .rxtick => Sys2Proof.Machine.execRxtick s
  | .edge => Sys2Proof.Machine.execEdge s
  | .line level => Sys2Proof.Machine.execLine level s
  | .enq byte => Sys2Proof.Machine.execEnq byte s
  | .deq => Sys2Proof.Machine.execDeq s
  | .isempty => Sys2Proof.Machine.execIsempty s
  | .begintx byte => Sys2Proof.Machine.execBegintx byte s
  | .laidle => Sys2Proof.Machine.execLaidle s
  | .laacc => Sys2Proof.Machine.execLaacc s
  | .srstart => Sys2Proof.Machine.execSrstart s
  | .srread => Sys2Proof.Machine.execSrread s
  | .srparse => Sys2Proof.Machine.execSrparse s
  | .srend => Sys2Proof.Machine.execSrend s
  | .sremit => Sys2Proof.Machine.execSremit s

end Sys2Proof.Machine
end

