-- ==== Sys2Proof/Machine/Fetch.lean ====
section
/-! DEFINITION. Taking the next operation of the schedule (spec 00_scope R16, 10_state R46, R52: the block fetches no
instructions; the schedule says which agent steps next; log 5). -/

namespace Sys2Proof.Machine

/-- The next word of the schedule, and the state without it. -/
def fetch (s : State) : Option (OpWord × State) :=
  match s.sched with
  | [] => none
  | w :: rest => some (w, s.withSched rest)

/-- Run one word: an invalid word is refused (R108). -/
def runWord (w : OpWord) (s : State) : Outcome :=
  match decode w with
  | .error why => .refused (.invalidWord why)
  | .ok i => exec i s

/-- Take one step of the run: with nothing scheduled no agent moves and the state stays (log 5). An
operation that is not enabled is answered by a hold, and the schedule goes on after it: DESIGN CHOICE (log 20). -/
def takeStep (s : State) : Outcome :=
  match fetch s with
  | none => .next s
  | some (w, s1) => runWord w s1

/-- Put a word in front of the schedule. -/
def placeWord (s : State) (w : OpWord) : State := s.withSched (w :: s.sched)

end Sys2Proof.Machine
end

