-- ==== Sys2Proof/Machine/Step.lean ====
section
/-! DEFINITION. The step of the machine: the next operation of the schedule, run (Machine/Fetch.lean). -/

namespace Sys2Proof.Machine

/-- One step: a next state, a fault, or a refusal. -/
def step (s : State) : Host.Outcome State Fault Refusal := takeStep s

/-- The state in which the very next step runs the operation word `w` (the table gives every row 40 bits; bit 0 is the
least significant bit of the one word). -/
def State.withFetchWord (s : State) (_nbits w : Nat) : State := placeWord s (BitVec.ofNat 40 w)

end Sys2Proof.Machine
end

