-- ==== Sys2Proof/Machine/Pseudo.lean ====
section
/-! DEFINITION. Sequences of operations: running one after another, the pseudo-operations of spec 30_encoding R111, and
the foreground step of a pass as 95_test_vectors runs it ("each `SREMIT` followed by `TXRUN`"). -/

namespace Sys2Proof.Machine

/-- Run a list of operations in order, stopping at the first fault or refusal. DESIGN CHOICE (log 20): an operation that
is not enabled, which R112 and K11 call a schedule error, does not end the run: it holds, and the next one follows. -/
def execAll : List Instr → State → Outcome
  | [], s => .next s
  | i :: is, s =>
    match exec i s with
    | .next t => execAll is t
    | .fault f => .fault f
    | .refused r => .refused r

/-- `TXRUN`: `TXTICK` nine times (R111). -/
def txRun : List Instr := List.replicate 9 .txtick

/-- One data bit of `RXFRAME`: the level, then the tick that samples it. -/
def rxBit (c : Config) (b : Byte) (i : Nat) : List Instr := [.line (levelOf c (b.getLsbD i)), .rxtick]

/-- `RXFRAME b` (R111). -/
def rxFrame (c : Config) (b : Byte) : List Instr :=
  .line (spaceLevel c) :: ((List.range 8).flatMap (rxBit c b) ++ [.line (markLevel c)])

/-- `SEND b`: `TXBYTE b`, then `TXRUN` (R111). -/
def send (b : Byte) : List Instr := .txbyte b :: txRun

/-- `FGSTEP`: the one sequencer operation enabled in the state (R111, R112). DESIGN CHOICE (log 19): where none can
step, because SREMIT holds on `tx.busy` (R187), it stands for no operation at all. -/
def fgStep (s : State) : List Instr := (enabledOp s).toList

/-- The foreground step of a pass: the attached sequencer operation, and `TXRUN` after an `SREMIT`. -/
def passStep (s : State) : Outcome :=
  match attachedOp s with
  | none => .next s
  | some i => execAll (i :: if i = .sremit then txRun else []) s

/-- `n` foreground steps of a pass. -/
def passSteps : Nat → State → Outcome
  | 0, s => .next s
  | n + 1, s =>
    match passStep s with
    | .next t => passSteps n t
    | .fault f => .fault f
    | .refused r => .refused r

end Sys2Proof.Machine
end

