-- ==== Sys2Proof/Machine/Assembly.lean ====
section
/-! DEFINITION. The text of a schedule (spec 30_encoding R110, R111): one operation or pseudo-operation a line, operands
separated by commas, a comment after `;`; and a word written as ten hex digits (R105). Blanks around the parts are
skipped, and the mnemonics are in capitals as R104 prints them (log 15). -/

namespace Sys2Proof.Machine

/-- A line of a schedule: an operation, or a pseudo-operation of rule R111. -/
inductive Entry where
  | op (i : Instr)
  | txRun
  | rxFrame (b : Byte)
  | send (b : Byte)
  | fgStep
  deriving DecidableEq, Repr

/-- The operations a line stands for in a state (R111). -/
def Entry.expand (s : State) : Entry → List Instr
  | .op i => [i]
  | .txRun => Sys2Proof.Machine.txRun
  | .rxFrame b => Sys2Proof.Machine.rxFrame s.par b
  | .send b => Sys2Proof.Machine.send b
  | .fgStep => Sys2Proof.Machine.fgStep s

/-- The line without its comment; a `;` in single quotes is a character. -/
def stripComment : List Char → List Char
  | [] => []
  | '\'' :: c :: '\'' :: rest => '\'' :: c :: '\'' :: stripComment rest
  | c :: rest => if c = ';' then [] else c :: stripComment rest

/-- Without the blanks at either end. -/
def trimBlanks (l : List Char) : List Char := ((l.dropWhile (· = ' ')).reverse.dropWhile (· = ' ')).reverse

/-- The operands, split at the commas; a `,` in single quotes is a character. -/
def splitOperands : List Char → List (List Char)
  | [] => [[]]
  | '\'' :: c :: '\'' :: rest =>
    match splitOperands rest with
    | [] => [['\'', c, '\'']]
    | x :: xs => ('\'' :: c :: '\'' :: x) :: xs
  | c :: rest =>
    match splitOperands rest with
    | [] => [[c]]
    | x :: xs => if c = ',' then [] :: x :: xs else (c :: x) :: xs

/-- The value of a hex digit: the index at which `HEX` (R102) has the character, in either case (log 15). -/
def hexValue (c : Char) : Option Nat :=
  (List.range 16).find? fun n => (hexDigit (BitVec.ofNat 4 n)).toNat == c.toUpper.toNat

/-- The value of a decimal digit: a hex digit below 10 (R110). -/
def decDigit (c : Char) : Option Nat := (hexValue c).filter (· < 10)

/-- Digits of a base, most significant first, onto a number so far. -/
def digitsFrom (base : Nat) (digit : Char → Option Nat) : Nat → List Char → Option Nat
  | n, [] => some n
  | n, c :: cs =>
    match digit c with
    | none => none
    | some d => digitsFrom base digit (n * base + d) cs

/-- A rate: decimal, and one the word can spell (R106, R110). -/
def parseRate (l : List Char) : Option Nat :=
  match l with
  | [] => none
  | _ :: _ => (digitsFrom 10 decDigit 0 l).filter spellableRate

/-- A byte: `0x` and two hex digits, or a character in single quotes (R110). -/
def parseByte? : List Char → Option Byte
  | ['0', 'x', h, l] => (digitsFrom 16 hexValue 0 [h, l]).map (BitVec.ofNat 8)
  | ['\'', c, '\''] => if c.toNat < 256 then some (BitVec.ofNat 8 c.toNat) else none
  | _ => none

/-- A level: `0` or `1`, or `MARK` or `SPACE` under the build's `INVERT` (R110). -/
def parseLevel (c : Config) (l : List Char) : Option Level :=
  match String.ofList l with
  | "0" => some false
  | "1" => some true
  | "MARK" => some (markLevel c)
  | "SPACE" => some (spaceLevel c)
  | _ => none

/-- An entry with no operand. -/
def noOperand (e : Entry) : List (List Char) → Option Entry
  | [[]] => some e
  | _ => none

/-- An entry with one byte. -/
def byteOperand (e : Byte → Entry) : List (List Char) → Option Entry
  | [b] => (parseByte? b).map e
  | _ => none

/-- An entry with two rates. -/
def rateOperands (i : Nat → Nat → Instr) : List (List Char) → Option Entry
  | [a, b] =>
    match parseRate a, parseRate b with
    | some x, some y => some (.op (i x y))
    | _, _ => none
  | _ => none

/-- `LINE` with its level. -/
def levelOperand (c : Config) : List (List Char) → Option Entry
  | [l] => (parseLevel c l).map fun v => .op (.line v)
  | _ => none

/-- `TICK TX` and `TICK RX`, accepted spellings of TXTICK and RXTICK (R110). -/
def tickOperand (ops : List (List Char)) : Option Entry :=
  match ops.map String.ofList with
  | ["TX"] => some (.op .txtick)
  | ["RX"] => some (.op .rxtick)
  | _ => none

/-- An entry from its mnemonic and operands (R104, R110, R111). -/
def parseEntry (c : Config) (mnemonic : String) (ops : List (List Char)) : Option Entry :=
  match mnemonic with
  | "INIT" => rateOperands .init ops
  | "SETBAUD" => rateOperands .setbaud ops
  | "TXBYTE" => byteOperand (fun b => .op (.txbyte b)) ops
  | "RXPOLL" => noOperand (.op .rxpoll) ops
  | "TXTICK" => noOperand (.op .txtick) ops
  | "RXTICK" => noOperand (.op .rxtick) ops
  | "TICK" => tickOperand ops
  | "EDGE" => noOperand (.op .edge) ops
  | "LINE" => levelOperand c ops
  | "ENQ" => byteOperand (fun b => .op (.enq b)) ops
  | "DEQ" => noOperand (.op .deq) ops
  | "ISEMPTY" => noOperand (.op .isempty) ops
  | "BEGINTX" => byteOperand (fun b => .op (.begintx b)) ops
  | "LAIDLE" => noOperand (.op .laidle) ops
  | "LAACC" => noOperand (.op .laacc) ops
  | "SRSTART" => noOperand (.op .srstart) ops
  | "SRREAD" => noOperand (.op .srread) ops
  | "SRPARSE" => noOperand (.op .srparse) ops
  | "SREND" => noOperand (.op .srend) ops
  | "SREMIT" => noOperand (.op .sremit) ops
  | "TXRUN" => noOperand .txRun ops
  | "RXFRAME" => byteOperand .rxFrame ops
  | "SEND" => byteOperand .send ops
  | "FGSTEP" => noOperand .fgStep ops
  | _ => none

/-- A line of a schedule: `none` where it is no line, `some none` where it is blank or a comment (R110). -/
def parseLine (c : Config) (line : List Char) : Option (Option Entry) :=
  match trimBlanks (stripComment line) with
  | [] => some none
  | l => (parseEntry c (String.ofList (l.takeWhile (· ≠ ' ')))
      ((splitOperands (l.dropWhile (· ≠ ' '))).map trimBlanks)).map some

/-- A word written as ten hex digits (R105). -/
def wordOfHex (l : List Char) : Option OpWord :=
  if l.length = 10 then (digitsFrom 16 hexValue 0 l).map (BitVec.ofNat 40) else none

end Sys2Proof.Machine
end

