-- ==== Sys2Proof/Machine/Conditions.lean ====
section
/-! DEFINITION. The four silent conditions X1 to X4 (spec 60_exceptions R200 to R204): which one an operation raises at a
state. They are names for claims only; the block records none of them (R200, D25). -/

namespace Sys2Proof.Machine

/-- The spec's labels X1 to X4. -/
inductive Condition where
  /-- X1 (R201) -/
  | receiveOverflow
  /-- X2 (R202) -/
  | lineBufferOverflow
  /-- X3 (R203) -/
  | unterminatedSentence
  /-- X4 (R204) -/
  | unsupportedRate
  deriving DecidableEq, Repr

/-- A rate outside `RATES`. -/
def unsupported (c : Config) (rate : Nat) : Bool := (c.rateTable.lookup rate).isNone

/-- The ring is full, so an enqueue drops its byte (R201). -/
def ringFull (s : State) : Bool := decide (s.ring.count = s.par.ringCap)

/-- The condition as an option. -/
def raiseIf (b : Bool) (c : Condition) : Option Condition := if b then some c else none

/-- The condition the operation raises, taken at the state (R201 to R204, "Raised by"); at most one (R215). -/
def conditionOf (i : Instr) (s : State) : Option Condition :=
  match i with
  | .init a b => raiseIf (!s.inited && (unsupported s.par a || unsupported s.par b)) .unsupportedRate
  | .setbaud a b => raiseIf (s.inited && (unsupported s.par a || unsupported s.par b)) .unsupportedRate
  | .rxtick => raiseIf (s.rx.armed && s.rx.busy && decide (8 ≤ (s.rx.bits + 1#4).toNat) && ringFull s) .receiveOverflow
  | .enq _ => raiseIf (ringFull s) .receiveOverflow
  | .laacc =>
    raiseIf (s.inited && decide (attachedOp s = some .laacc) && decide (s.ring.count ≠ 0)
      && decide ((s.buf.wr + 1#16).toNat + 1 = s.par.lineCap)) .lineBufferOverflow
  | .srparse =>
    raiseIf (s.inited && decide (attachedOp s = some .srparse) && atEnd s s.scan.pos.toNat) .unterminatedSentence
  | .txbyte _ => none
  | .rxpoll => none
  | .txtick => none
  | .edge => none
  | .line _ => none
  | .deq => none
  | .isempty => none
  | .begintx _ => none
  | .laidle => none
  | .srstart => none
  | .srread => none
  | .srend => none
  | .sremit => none

end Sys2Proof.Machine
end

