-- ==== Sys2Proof/Machine/Harness.lean ====
section
/-! DEFINITION. The reference time harness (spec 70_reset_and_hazards R262; 60_exceptions R211, R212): when an armed
channel is due, in half bit periods of its direction, and the timed schedules of one frame. No operation depends on it
(the model is untimed, log 11). -/

namespace Sys2Proof.Machine

/-- Half bit periods from the step that armed the transmit channel to its tick: one transmit bit period (R211). -/
def txDue (s : State) : Option Nat := if s.tx.armed then some 2 else none

/-- Half bit periods of a receive delay: `ONE` is 2, `ONE_HALF` is 3 (R262). -/
def RxDelay.halfPeriods : RxDelay → Nat
  | .one => 2
  | .oneHalf => 3

/-- Half bit periods from the step that armed the receive channel to its tick (R212). -/
def rxDue (s : State) : Option Nat := if s.rx.armed then some s.rx.delay.halfPeriods else none

/-- The nine transmit ticks of a byte begun at `t`: `t+2`, `t+4`, ..., `t+18` (R262). -/
def txSchedule (t : Nat) : List (Nat × Instr) := (List.range 9).map fun k => (t + 2 * (k + 1), .txtick)

/-- A frame of `b` whose start edge is at `t`: the sender's line changes at `t`, `t+2`, ..., `t+18`, the receive ticks
at `t+3`, `t+5`, ..., `t+17` (R262). -/
def rxSchedule (c : Config) (b : Byte) (t : Nat) : List (Nat × Instr) :=
  (t, .line (spaceLevel c)) ::
    ((List.range 8).flatMap (fun i =>
        [(t + 2 * (i + 1), .line (levelOf c (b.getLsbD i))), (t + 2 * (i + 1) + 1, .rxtick)])
      ++ [(t + 18, .line (markLevel c))])

end Sys2Proof.Machine
end

