-- ==== Sys2Proof/Safety.lean ====
section
/-! DEFINITION. The terms in which claims are made: the invariant of the block (spec 10_state R44, R54 to R58;
44_line_assembler R177), the launch premises and quiescence (70_reset_and_hazards R242, R243), the transition table of
the sequencer (49_operation_laws R284), ownership by context (60_exceptions R230). -/

namespace Sys2Proof.Machine

/-! ### Words -/

/-- The must-be-zero bits of a word's format are zero (R105). -/
def mustBeZeroOk (w : OpWord) : Prop :=
  ((opcodeField w).toNat ∈ [0x04, 0x11, 0x21, 0x22, 0x30, 0x31, 0x32, 0x33, 0x34, 0x35, 0x36] →
    w.toNat % 2 ^ 32 = 0) ∧
  ((opcodeField w).toNat ∈ [0x03, 0x20, 0x23] → w.toNat % 2 ^ 32 < 2 ^ 8) ∧
  ((opcodeField w).toNat ∈ [0x10, 0x12] → w.toNat % 2 ^ 32 < 2)

/-- The opcodes of rule R104. -/
def assignedOpcodes : List Nat :=
  [0x01, 0x02, 0x03, 0x04, 0x10, 0x11, 0x12, 0x20, 0x21, 0x22, 0x23, 0x30, 0x31, 0x32, 0x33, 0x34, 0x35, 0x36]

/-! ### The invariant -/

/-- Both memories are in canonical form and list only cells that exist (R70, R72). -/
structure MemoriesOk (s : State) : Prop where
  lbForm : Memory.wf s.buf.cells = true
  lbRange : Memory.within s.par.lineCap s.buf.cells = true
  rbForm : Memory.wf s.ring.cells = true
  rbRange : Memory.within s.par.ringCap s.ring.cells = true

/-- R56, and `rb.head` is an index of the ring (R33). -/
structure RingOk (s : State) : Prop where
  count_le : s.ring.count ≤ s.par.ringCap
  head_lt : s.ring.head < s.par.ringCap
  tail_eq : s.ring.tail = (s.ring.head + s.ring.count) % s.par.ringCap

/-- R22, R54; a byte is in flight only after INIT and with `cfg.tx` configured (R166). -/
structure TransmitterOk (s : State) : Prop where
  bits_le : s.tx.bits.toNat ≤ 8
  armed_eq : s.tx.armed = s.tx.busy
  busy_ready : s.tx.busy = true → s.inited = true ∧ s.cfg.tx.isSome = true

/-- R27, R55; a byte is being sampled only after INIT and with `cfg.rx` configured (R166). -/
structure ReceiverOk (s : State) : Prop where
  bits_le : s.rx.bits.toNat ≤ 8
  busy_bits : s.rx.busy = true → s.rx.bits.toNat < 8
  armed_eq : s.rx.armed = s.rx.busy
  edge_eq : s.rx.edgeEn = (s.inited && !s.rx.busy)
  busy_ready : s.rx.busy = true → s.inited = true ∧ s.cfg.rx.isSome = true

/-- The LineBuffer in a cycle: R39, R177, and cells `0..wr-1` written (R38). -/
structure LineOk (s : State) : Prop where
  accumulating : s.fg = .laAcc → s.buf.wr.toNat + 2 ≤ s.par.lineCap ∧ s.buf.idle.toNat < s.par.tIdle
  cursor : s.fg ≠ .laIdle → 1 ≤ s.buf.wr.toNat ∧ s.buf.wr.toNat + 1 ≤ s.par.lineCap
  sentinel : s.fg ≠ .laIdle → Memory.lookup s.buf.cells s.buf.wr.toNat = some s.par.sent
  written : s.fg ≠ .laIdle → ∀ k, k < s.buf.wr.toNat → (Memory.lookup s.buf.cells k).isSome = true

/-- The scan: R41, R44, R45; the sequencer moves only after INIT (R166). -/
structure ScanOk (s : State) : Prop where
  pos_le : s.scan.pos.toNat + 1 ≤ s.par.lineCap + s.par.skip
  scanning : s.fg = .srRead ∨ s.fg = .srParse → s.scan.pos.toNat + 1 ≤ s.par.lineCap
  field_le : s.fg = .srParse → s.scan.field.toNat ≤ s.scan.pos.toNat
  queue_le : s.scan.emitq.length ≤ 4
  queue_nil : s.fg.inRewriter = false → s.scan.emitq = []
  started : s.inited = false → s.fg = .laIdle

/-- The invariant of the block, under the size constraints of rule R8. -/
structure Inv (s : State) : Prop where
  sizes : s.par.sizesOk = true
  memories : MemoriesOk s
  ring : RingOk s
  transmitter : TransmitterOk s
  receiver : ReceiverOk s
  line : LineOk s
  scan : ScanOk s

/-! ### Launch and quiescence -/

/-- The launch premises of rule R242. -/
structure LaunchReady (s : State) : Prop where
  inited : s.inited = true
  cfgTx : s.cfg.tx.isSome = true
  cfgRx : s.cfg.rx.isSome = true
  txIdle : s.tx.busy = false
  rxIdle : s.rx.busy = false
  txDisarmed : s.tx.armed = false
  rxDisarmed : s.rx.armed = false
  edgeEnabled : s.rx.edgeEn = true
  ringEmpty : s.ring.count = 0
  sequencer : s.fg = .laIdle
  queueEmpty : s.scan.emitq = []
  rxMark : s.rxLine = markLevel s.par
  txMark : s.tx.line = markLevel s.par

/-- A quiescent state (R243). -/
structure Quiescent (s : State) : Prop where
  sequencer : s.fg = .laIdle
  queueEmpty : s.scan.emitq = []
  txIdle : s.tx.busy = false
  rxIdle : s.rx.busy = false
  ringEmpty : s.ring.count = 0

/-! ### Control transfer -/

/-- The sequencer's transition table (R284): the control states an operation may lead to from a control state. -/
def sequencerMoves (f : FgState) (i : Instr) : List FgState :=
  match f, i with
  | .laIdle, .laidle => [.laIdle, .laAcc]
  | .laAcc, .laacc => [.laAcc, .srStart]
  | .srStart, .srstart => [.srEnd, .srRead, .srParse]
  | .srRead, .srread => [.srStart, .srRead]
  | .srParse, .srparse => [.srStart, .srParse]
  | .srEnd, .srend => [.laIdle]
  | _, _ => []

/-! ### Ownership -/

/-- The state that the event context never writes (R230): `cfg`, `inited`, the ring's consumer side `rb.head`, and the
sequencer's. -/
structure ForegroundUntouched (s t : State) : Prop where
  cfg : t.cfg = s.cfg
  inited : t.inited = s.inited
  head : t.ring.head = s.ring.head
  fg : t.fg = s.fg
  buf : t.buf = s.buf
  scan : t.scan = s.scan

/-- The state that the foreground never writes but in INIT (R230): `rx.*`, `rxt.*`, `edge_en`, the ring's producer
side, `rx_line`. -/
structure EventUntouched (s t : State) : Prop where
  rx : t.rx = s.rx
  rxLine : t.rxLine = s.rxLine
  slots : t.ring.cells = s.ring.cells
  tail : t.ring.tail = s.ring.tail

/-! ### What goes through the ring -/

/-- The byte that a stored ENQ adds, from the operation and its result. -/
def storedBy : Instr → Result → List Byte
  | .enq b, .bool true => [b]
  | _, _ => []

/-- The byte that a DEQ returns, from the operation and its result. -/
def returnedBy : Instr → Result → List Byte
  | .deq, .byte (some b) => [b]
  | _, _ => []

/-- The bytes of a run's ENQ operations that answered true, in order. -/
def acceptedBytes : List Instr → State → List Byte
  | [], _ => []
  | i :: is, s =>
    match exec i s with
    | .next t => storedBy i t.out ++ acceptedBytes is t
    | .fault _ => []
    | .refused _ => []

/-- The bytes that a run's DEQ operations returned, in order. -/
def returnedBytes : List Instr → State → List Byte
  | [], _ => []
  | i :: is, s =>
    match exec i s with
    | .next t => returnedBy i t.out ++ returnedBytes is t
    | .fault _ => []
    | .refused _ => []

/-! ### Views of the LineBuffer -/

/-- The bytes of the current cycle: `LB[0..wr-1]`. -/
def lineBytes (s : State) : List Byte := (List.range s.buf.wr.toNat).map (lbRead s)

/-- The bytes `LB[p..p+n-1]`. -/
def lbSlice (s : State) (p n : Nat) : List Byte := (List.range n).map fun k => lbRead s (p + k)

/-- The exclusive-or of the bytes of a list that are folded into the checksum: all but `$` and `*` (R190). -/
def foldChecksum (bs : List Byte) : Byte :=
  bs.foldl (fun acc b => if b = chDollar ∨ b = chStar then acc else acc ^^^ b) 0#8

/-- What a rewrite emits for the sentence bytes `bs` that stand from index `p`, entered with field index `field`: each
byte in order, a `'0'` before each byte at which `Pad` holds (R184, R191). -/
def rewrittenBody (s : State) : Nat → Word → List Byte → List Byte
  | _, _, [] => []
  | p, field, c :: cs =>
    let field' := if c = chComma then field + 1#16 else field
    (if padAt s field' p then [chZero, c] else [c]) ++ rewrittenBody s (p + 1) field' cs

/-- The foreground is ready to run a pass: initialised, `cfg.tx` configured, the Transmitter idle and its timer
disarmed (R242 in part). -/
structure PassReady (s : State) : Prop where
  inited : s.inited = true
  cfgTx : s.cfg.tx.isSome = true
  txIdle : s.tx.busy = false
  txDisarmed : s.tx.armed = false

end Sys2Proof.Machine
end

