-- ==== Sys2Proof/Certificates/Slice0/Obligations.lean ====
section
/-! DEFINITION. The statements for the provers, one `def Obligations.<Name> : Prop` each; OBLIGATIONS.json gives each
one's rules. `N - 1`, `C` and the other parameters are those of the state at hand (`s.par`), so every statement holds
for every parameter set within its hypotheses. "Hold" (the operation is not enabled and no field of rule R20 changes) is
spelled as a next state that differs in the model's own field `out` only, and a result as the value of that field (logs 6
and 7). That a run goes on after an operation that is not enabled is the model's choice too (log 20). "Decision D<n>" names the entry of 92_eei_decisions.md by which the spec marks a choice as its own. -/

open Sys2Proof Sys2Proof.Machine

/-! ### Encoding -/

/-- Decoding an encoded well-formed operation gives it back (R104 to R106, decision D1). -/
def Obligations.DecodeOfEncode : Prop :=
  ∀ i : Instr, i.wf = true → decode (encode i) = .ok i

/-- A word that spells an operation is the encoding of it, and the operation is well-formed: no bit is dropped
(decision D1). -/
def Obligations.EncodeOfDecode : Prop :=
  ∀ (w : OpWord) (i : Instr), decode w = .ok i → i.wf = true ∧ encode i = w

/-- The words that spell an operation are those of the opcode table's rows, with the row's mnemonic, and no word
belongs to two rows (decision D1). -/
def Obligations.ValidWordsAreTheTableRows : Prop :=
  ∀ w : OpWord,
    (∀ i, decode w = .ok i → ∃ r ∈ opcodeTable, r.matches w = true ∧ r.mnemonic = i.mnemonic) ∧
    (∀ r ∈ opcodeTable, r.matches w = true → ∃ i, decode w = .ok i ∧ i.mnemonic = r.mnemonic) ∧
    (∀ r ∈ opcodeTable, ∀ r' ∈ opcodeTable, r.matches w = true → r'.matches w = true → r = r')

/-- The 20 example words of rule R110 decode to the operations they stand for (decision D1). -/
def Obligations.SampleWordsDecode : Prop :=
  decode 0x0125802580#40 = .ok (.init 9600 9600) ∧ decode 0x0212C09600#40 = .ok (.setbaud 4800 38400) ∧
  decode 0x0300000041#40 = .ok (.txbyte 0x41#8) ∧ decode 0x0400000000#40 = .ok .rxpoll ∧
  decode 0x1000000000#40 = .ok .txtick ∧ decode 0x1000000001#40 = .ok .rxtick ∧
  decode 0x1100000000#40 = .ok .edge ∧ decode 0x1200000000#40 = .ok (.line false) ∧
  decode 0x1200000001#40 = .ok (.line true) ∧ decode 0x200000007F#40 = .ok (.enq 0x7F#8) ∧
  decode 0x2100000000#40 = .ok .deq ∧ decode 0x2200000000#40 = .ok .isempty ∧
  decode 0x2300000000#40 = .ok (.begintx 0x00#8) ∧ decode 0x3000000000#40 = .ok .laidle ∧
  decode 0x3100000000#40 = .ok .laacc ∧ decode 0x3200000000#40 = .ok .srstart ∧
  decode 0x3300000000#40 = .ok .srread ∧ decode 0x3400000000#40 = .ok .srparse ∧
  decode 0x3500000000#40 = .ok .srend ∧ decode 0x3600000000#40 = .ok .sremit

/-- R108 (decision D1): which words are invalid, that the step refuses them, that TXTICK and RXTICK differ in `B[0]`, that
every rate and every byte is legal, and that an unsupported rate leaves the previous configuration. -/
def Obligations.InvalidWordsAreRefused : Prop :=
  (∀ w : OpWord, (∃ why, decode w = .error why) ↔ (opcodeField w).toNat ∉ assignedOpcodes ∨ ¬ mustBeZeroOk w) ∧
  (∀ (s : State) (w : OpWord) (rest : List OpWord) (why : Reject),
    s.sched = w :: rest → decode w = .error why → step s = .refused (.invalidWord why)) ∧
  (decode 0x1000000000#40 = .ok .txtick ∧ decode 0x1000000001#40 = .ok .rxtick) ∧
  (∀ a b : Nat, a < 65536 → b < 65536 →
    decode (opWord 0x01 a b) = .ok (.init a b) ∧ decode (opWord 0x02 a b) = .ok (.setbaud a b)) ∧
  (∀ b : Byte, decode (opWord 0x03 0 b.toNat) = .ok (.txbyte b) ∧ decode (opWord 0x20 0 b.toNat) = .ok (.enq b) ∧
    decode (opWord 0x23 0 b.toNat) = .ok (.begintx b)) ∧
  (∀ (c : Config) (rate : Nat) (previous : Option RateEntry),
    rate ∉ c.rateTable.map Prod.fst → resolveRate c rate previous = (previous, false))

/-! ### The step -/

/-- A step runs the operation that the schedule's first word spells, on the state with that word taken; with nothing
scheduled it leaves the state (the schedule as a field of the state is the model's, log 5). -/
def Obligations.StepRunsTheScheduledOperation : Prop :=
  (∀ (s : State) (w : OpWord) (rest : List OpWord) (i : Instr),
    s.sched = w :: rest → decode w = .ok i → step s = exec i (s.withSched rest)) ∧
  (∀ s : State, s.sched = [] → step s = .next s)

/-! ### Reset -/

/-- R53 (decision D8): the values after reset that the spec gives, for a block of any parameters; `State.reset` is that
of the reference parameters. -/
def Obligations.ResetValues : Prop :=
  State.reset = State.powerOn Config.reference ∧
  ∀ c : Config,
    (State.powerOn c).par = c ∧
    (State.powerOn c).tx.busy = false ∧ (State.powerOn c).tx.armed = false ∧ (State.powerOn c).rx.busy = false ∧
    (State.powerOn c).rx.edgeEn = false ∧ (State.powerOn c).rx.armed = false ∧ (State.powerOn c).ring.head = 0 ∧
    (State.powerOn c).ring.tail = 0 ∧ (State.powerOn c).ring.count = 0 ∧ (State.powerOn c).cfg.tx = none ∧
    (State.powerOn c).cfg.rx = none ∧ (State.powerOn c).inited = false ∧ (State.powerOn c).fg = .laIdle ∧
    (State.powerOn c).scan.emitq = [] ∧ (State.powerOn c).rxLine = markLevel c

/-! ### SoftUart facade -/

/-- `Resolve` (R163): a supported rate takes effect, another leaves the previous entry; the bool says which
(decision D6). -/
def Obligations.ResolveKeepsOrReplaces : Prop :=
  ∀ (c : Config) (previous : Option RateEntry),
    (∀ (rate : Nat) (e : RateEntry), c.ratesOk = true → (rate, e) ∈ c.rateTable →
      resolveRate c rate previous = (some e, true)) ∧
    (∀ rate : Nat, rate ∉ c.rateTable.map Prod.fst → resolveRate c rate previous = (previous, false))

/-- INIT before INIT has run (R161): both directions resolved, the transmit line at mark, nothing busy, nothing armed,
the ring empty, the edge detector enabled; all else as it was. A second INIT is refused (R258, decision D9). -/
def Obligations.InitEstablishesTheTransceiver : Prop :=
  ∀ (s : State) (a b : Nat),
    (s.inited = false → exec (.init a b) s = .next
      { s with
        cfg := { tx := (resolveRate s.par a s.cfg.tx).1, rx := (resolveRate s.par b s.cfg.rx).1 }
        tx := { sr := s.tx.sr, bits := s.tx.bits, busy := false, line := markLevel s.par, armed := false }
        rx := { sr := s.rx.sr, bits := s.rx.bits, busy := false, edgeEn := true, armed := false, delay := s.rx.delay }
        ring := { cells := s.ring.cells, head := 0, tail := 0, count := 0 }
        inited := true
        out := .rates (resolveRate s.par a s.cfg.tx).2 (resolveRate s.par b s.cfg.rx).2 }) ∧
    (s.inited = true → exec (.init a b) s = .refused .secondInit)

/-- SETBAUD after INIT (R162) writes `cfg.tx` and `cfg.rx` only, also during a byte. -/
def Obligations.SetbaudWritesTheRatesOnly : Prop :=
  ∀ (s : State) (a b : Nat), s.inited = true →
    exec (.setbaud a b) s = .next
      { s with
        cfg := { tx := (resolveRate s.par a s.cfg.tx).1, rx := (resolveRate s.par b s.cfg.rx).1 }
        out := .rates (resolveRate s.par a s.cfg.tx).2 (resolveRate s.par b s.cfg.rx).2 }

/-- TXBYTE (R164): with the Transmitter idle exactly BEGINTX's effect; while it sends the operation holds
(the transmit log is the model's own field, log 7). -/
def Obligations.TxbyteBeginsOrWaits : Prop :=
  ∀ (s : State) (b : Byte), s.inited = true → s.cfg.tx.isSome = true →
    (s.tx.busy = false → exec (.txbyte b) s = .next
      { s with
        tx := { sr := b, bits := 8#4, busy := true, line := spaceLevel s.par, armed := true }
        txLog := s.txLog ++ [b]
        out := .unit }) ∧
    (s.tx.busy = true → exec (.txbyte b) s = .next { s with out := .held })

/-- The refusal table (R166), in the states a run can reach (`Inv`): what steps, what is refused and what is not enabled
before INIT, and what is refused or cannot be armed for a direction that was never configured (decisions D7, D9). -/
def Obligations.RefusalTable : Prop :=
  ∀ s : State, Inv s →
    (s.inited = false →
      (∀ a b, ∃ t, exec (.init a b) s = .next t ∧ t.inited = true) ∧
      (∀ i : Instr, (∃ a b, i = .setbaud a b) ∨ i = .rxpoll ∨ (∃ b, i = .txbyte b ∨ i = .begintx b) ∨ i = .sremit ∨
        i ∈ [Instr.laidle, .laacc, .srstart, .srread, .srparse, .srend] → exec i s = .refused .beforeInit) ∧
      (∀ i ∈ [Instr.edge, .txtick, .rxtick], exec i s = .next { s with out := .held }) ∧
      (∀ l, exec (.line l) s = .next { s with rxLine := l, out := .unit }) ∧
      (∀ b, ∃ t ok, exec (.enq b) s = .next t ∧ t.out = .bool ok) ∧
      (∃ t r, exec .deq s = .next t ∧ t.out = .byte r) ∧ (∃ t e, exec .isempty s = .next t ∧ t.out = .bool e)) ∧
    (s.inited = true → s.cfg.tx = none →
      (∀ b, exec (.txbyte b) s = .refused (.unconfigured .tx) ∧ exec (.begintx b) s = .refused (.unconfigured .tx)) ∧
      (s.fg.inRewriter = true → s.scan.emitq ≠ [] → exec .sremit s = .refused (.unconfigured .tx)) ∧
      s.tx.armed = false) ∧
    (s.inited = true → s.cfg.rx = none →
      (s.rx.edgeEn = true → exec .edge s = .refused (.unconfigured .rx)) ∧
      (s.rx.edgeEn = true → s.rxLine = markLevel s.par →
        exec (.line (spaceLevel s.par)) s = .refused (.unconfigured .rx)) ∧
      s.rx.armed = false)

/-- The launch premises (R242) are true after reset and a successful INIT, for every parameter set. -/
def Obligations.LaunchAfterInit : Prop :=
  ∀ (c : Config) (a b : Nat), a ∈ c.rateTable.map Prod.fst → b ∈ c.rateTable.map Prod.fst →
    ∃ t, exec (.init a b) (State.powerOn c) = .next t ∧ t.out = .rates true true ∧ LaunchReady t

/-! ### Transmitter -/

/-- BEGINTX (R141): with the Transmitter idle the start bit and the loaded BitSlot; while it sends, refused (decision
D11). -/
def Obligations.BegintxLoadsTheFrame : Prop :=
  ∀ (s : State) (b : Byte), s.inited = true → s.cfg.tx.isSome = true →
    (s.tx.busy = false → exec (.begintx b) s = .next
      { s with
        tx := { sr := b, bits := 8#4, busy := true, line := spaceLevel s.par, armed := true }
        txLog := s.txLog ++ [b]
        out := .unit }) ∧
    (s.tx.busy = true → exec (.begintx b) s = .refused .whileSending)

/-- TXTICK (R142): a data bit, the stop bit, the defensive branch; not enabled while the timer is disarmed (decision
D10). -/
def Obligations.TxtickSendsOneBit : Prop :=
  ∀ s : State,
    (s.tx.armed = true → s.tx.busy = true → 0 < s.tx.bits.toNat → exec .txtick s = .next
      { s with
        tx := { sr := s.tx.sr >>> 1, bits := s.tx.bits - 1#4, busy := true,
                line := levelOf s.par (s.tx.sr.getLsbD 0), armed := true }
        out := .unit }) ∧
    (s.tx.armed = true → s.tx.busy = true → s.tx.bits.toNat = 0 → exec .txtick s = .next
      { s with
        tx := { sr := s.tx.sr, bits := s.tx.bits, busy := false, line := markLevel s.par, armed := false }
        out := .unit }) ∧
    (s.tx.armed = true → s.tx.busy = false → exec .txtick s = .next
      { s with tx := { s.tx with armed := false }, out := .unit }) ∧
    (s.tx.armed = false → exec .txtick s = .next { s with out := .held })

/-- The levels of the line under `INVERT` (R12, R145; which level `INVERT = false` names is decision D3, log 17):
`level` and `logic` exchange bit and level when `INVERT` is set, mark is `level(1)` and space `level(0)`. And the frame
law (R143): after BEGINTX `b` on an idle Transmitter and `k` ticks, `k` at most 9, the line holds slot `k` of the frame of
`b`, `tx.sr`, `tx.bits` and `tx.busy` are as the law says, and a tenth tick is not enabled. -/
def Obligations.FrameLaw : Prop :=
  (∀ c : Config,
    (c.invert = false → markLevel c = true ∧ spaceLevel c = false ∧
      ∀ bit, levelOf c bit = bit ∧ logicOf c bit = bit) ∧
    (c.invert = true → markLevel c = false ∧ spaceLevel c = true ∧
      ∀ bit, levelOf c bit = (!bit) ∧ logicOf c bit = (!bit))) ∧
  ∀ (s : State) (b : Byte) (k : Nat), s.inited = true → s.cfg.tx.isSome = true → s.tx.busy = false → k ≤ 9 →
    ∃ t, execAll (.begintx b :: List.replicate k .txtick) s = .next t ∧
      t.tx.line = (if k = 0 then spaceLevel s.par else if k ≤ 8 then levelOf s.par (b.getLsbD (k - 1))
        else markLevel s.par) ∧
      t.tx.line = (frameLevels s.par b)[k]?.getD false ∧
      (1 ≤ k → k ≤ 8 → t.tx.sr = b >>> k ∧ t.tx.bits.toNat = 8 - k) ∧
      t.tx.busy = decide (k ≤ 8) ∧ t.tx.armed = t.tx.busy ∧
      (k = 9 → exec .txtick t = .next { t with out := .held })

/-! ### Receiver -/

/-- EDGE (R151): starts a byte; not enabled before INIT or with the detector disabled. -/
def Obligations.EdgeStartsSampling : Prop :=
  ∀ s : State,
    (s.inited = true → s.rx.edgeEn = true → s.cfg.rx.isSome = true → exec .edge s = .next
      { s with
        rx := { sr := 0#8, bits := 0#4, busy := true, edgeEn := false, armed := true, delay := .oneHalf }
        out := .unit }) ∧
    (s.inited = false ∨ s.rx.edgeEn = false → exec .edge s = .next { s with out := .held })

/-- RXTICK (R152): the sample enters at bit 7; the eighth one enqueues the byte, drops it on a full ring (X1), and
waits for the next edge. A tick with `rx.busy` false is refused (decision D10). -/
def Obligations.RxtickSamplesOneBit : Prop :=
  ∀ (s : State) (v : Byte), v = (s.rx.sr >>> 1) ||| (if logicOf s.par s.rxLine then 0x80#8 else 0x00#8) →
    (s.rx.armed = false → exec .rxtick s = .next { s with out := .held }) ∧
    (s.rx.armed = true → s.rx.busy = false → exec .rxtick s = .refused .tickWhileWaiting) ∧
    (s.rx.armed = true → s.rx.busy = true → s.rx.bits.toNat < 7 → exec .rxtick s = .next
      { s with
        rx := { sr := v, bits := s.rx.bits + 1#4, busy := true, edgeEn := s.rx.edgeEn, armed := true, delay := .one }
        out := .unit }) ∧
    (s.rx.armed = true → s.rx.busy = true → s.rx.bits.toNat = 7 →
      (s.ring.count = s.par.ringCap → exec .rxtick s = .next
        { s with
          rx := { sr := v, bits := 8#4, busy := false, edgeEn := true, armed := false, delay := s.rx.delay }
          out := .unit }) ∧
      (s.ring.count ≠ s.par.ringCap → s.ring.tail < s.par.ringCap → exec .rxtick s = .next
        { s with
          rx := { sr := v, bits := 8#4, busy := false, edgeEn := true, armed := false, delay := s.rx.delay }
          ring := { cells := Memory.write s.ring.cells s.ring.tail v, head := s.ring.head,
                    tail := (s.ring.tail + 1) % s.par.ringCap, count := s.ring.count + 1 }
          out := .unit }))

/-- LINE (R153): the level changes; an enabled mark-to-space transition performs the edge handler in the same step
(decision D4). -/
def Obligations.LineChangesTheLevel : Prop :=
  ∀ (s : State) (l : Level),
    (¬ (s.inited = true ∧ s.rx.edgeEn = true ∧ s.rxLine = markLevel s.par ∧ l = spaceLevel s.par) →
      exec (.line l) s = .next { s with rxLine := l, out := .unit }) ∧
    (s.inited = true → s.rx.edgeEn = true → s.rxLine = markLevel s.par → l = spaceLevel s.par →
      s.cfg.rx.isSome = true → exec (.line l) s = .next
        { s with
          rxLine := l
          rx := { sr := 0#8, bits := 0#4, busy := true, edgeEn := false, armed := true, delay := .oneHalf }
          out := .unit })

/-- The receive law (R154): after EDGE and `i` ticks (at most 8), the `j`-th reading level `ls[j]`, each level set by a
LINE before its tick: bit `7-i+j` (counting `j` from 1) of `rx.sr` is the `j`-th sample, the other bits are 0; after
eight, the byte with bit `j` the `j`-th sample (counting from 0) is what the enqueue was handed. -/
def Obligations.ReceiveLaw : Prop :=
  ∀ (s : State) (ls : List Level), s.inited = true → s.rx.edgeEn = true → s.cfg.rx.isSome = true →
    s.ring.count < s.par.ringCap → s.ring.tail < s.par.ringCap → ls.length ≤ 8 →
    ∃ t, execAll (.edge :: ls.flatMap fun l => [.line l, .rxtick]) s = .next t ∧
      t.rx.bits.toNat = ls.length ∧
      (∀ (j : Nat) (l : Level), ls[j]? = some l → t.rx.sr.getLsbD (8 - ls.length + j) = logicOf s.par l) ∧
      (∀ j, j < 8 - ls.length → t.rx.sr.getLsbD j = false) ∧
      (ls.length < 8 → t.ring = s.ring) ∧
      (ls.length = 8 → t.rx.busy = false ∧ t.ring.count = s.ring.count + 1 ∧ rbRead t s.ring.tail = t.rx.sr)

/-- The receive round trip (R158): from an idle line with the detector enabled and a ring that is not full, RXFRAME `b`
stores exactly `b`, once, and leaves the Receiver waiting. -/
def Obligations.RxFrameRoundTrip : Prop :=
  ∀ (s : State) (b : Byte), Inv s → s.inited = true → s.rx.edgeEn = true → s.cfg.rx.isSome = true →
    s.rxLine = markLevel s.par → s.ring.count < s.par.ringCap →
    ∃ t, execAll (rxFrame s.par b) s = .next t ∧ ringWindow t = ringWindow s ++ [b] ∧
      t.rx.busy = false ∧ t.rx.edgeEn = true ∧ t.rx.armed = false ∧ t.rxLine = markLevel s.par

/-! ### RingBuffer -/

/-- ENQ (R131): stored at the tail, or dropped with the ring unchanged when full (which index is the tail: decision
D5). -/
def Obligations.EnqStoresOrDrops : Prop :=
  ∀ (s : State) (b : Byte),
    (s.ring.count = s.par.ringCap → exec (.enq b) s = .next { s with out := .bool false }) ∧
    (s.ring.count ≠ s.par.ringCap → s.ring.tail < s.par.ringCap → exec (.enq b) s = .next
      { s with
        ring := { cells := Memory.write s.ring.cells s.ring.tail b, head := s.ring.head,
                  tail := (s.ring.tail + 1) % s.par.ringCap, count := s.ring.count + 1 }
        out := .bool true })

/-- DEQ (R132) and RXPOLL after INIT (R165): the byte at the head and the head moved on, or no data with nothing
changed (which index is the head: R33, decision D5). -/
def Obligations.DeqAndRxpollTakeTheOldest : Prop :=
  decode 0x2100000000#40 = .ok .deq ∧
  ∀ (s : State) (i : Instr), i = .deq ∨ (i = .rxpoll ∧ s.inited = true) →
    (s.ring.count = 0 → exec i s = .next { s with out := .byte none }) ∧
    (s.ring.count ≠ 0 → s.ring.head < s.par.ringCap → exec i s = .next
      { s with
        ring := { s.ring with head := (s.ring.head + 1) % s.par.ringCap, count := s.ring.count - 1 }
        out := .byte (some (rbRead s s.ring.head)) })

/-- ISEMPTY (R133): answers whether the count is 0 and writes no state; the event context and the environment never
turn a false answer into a true one. -/
def Obligations.IsemptyAnswers : Prop :=
  (∀ s : State, exec .isempty s = .next { s with out := .bool (decide (s.ring.count = 0)) }) ∧
  (∀ (i : Instr) (s t : State), Agent.foreground ∉ i.agents → Agent.host ∉ i.agents → s.ring.count ≠ 0 →
    exec i s = .next t → t.ring.count ≠ 0)

/-- The ring is a queue (R58, R134): ENQ adds at the end of the occupied window or leaves it, DEQ takes its first
byte. -/
def Obligations.RingIsAQueue : Prop :=
  ∀ s : State, RingOk s →
    (∀ b, s.ring.count < s.par.ringCap →
      ∃ t, exec (.enq b) s = .next t ∧ t.out = .bool true ∧ ringWindow t = ringWindow s ++ [b] ∧ RingOk t) ∧
    (∀ b, s.ring.count = s.par.ringCap →
      ∃ t, exec (.enq b) s = .next t ∧ t.out = .bool false ∧ ringWindow t = ringWindow s ∧ RingOk t) ∧
    (∀ b rest, ringWindow s = b :: rest →
      ∃ t, exec .deq s = .next t ∧ t.out = .byte (some b) ∧ ringWindow t = rest ∧ RingOk t) ∧
    (ringWindow s = [] → ∃ t, exec .deq s = .next t ∧ t.out = .byte none ∧ ringWindow t = [] ∧ RingOk t)

/-- The FIFO and overflow law (R134): of a sequence enqueued on an empty ring with no dequeue between, the first `C`
bytes are stored in order and each later one answers false and changes nothing; and over any sequence of ENQ and DEQ the
bytes returned are the bytes that were stored, in the same order. -/
def Obligations.FirstBytesSurviveOverflow : Prop :=
  (∀ (s : State) (bs : List Byte) (k : Nat) (b : Byte), RingOk s → s.ring.count = 0 → bs[k]? = some b →
    ∃ t u, execAll ((bs.take k).map .enq) s = .next t ∧ exec (.enq b) t = .next u ∧
      (k < s.par.ringCap → u.out = .bool true ∧ ringWindow u = bs.take (k + 1)) ∧
      (s.par.ringCap ≤ k → u.out = .bool false ∧ u.withOut t.out = t)) ∧
  (∀ (s : State) (is : List Instr), RingOk s → (∀ i ∈ is, i = .deq ∨ ∃ b, i = .enq b) →
    ∃ t, execAll is s = .next t ∧
      ringWindow s ++ acceptedBytes is s = returnedBytes is s ++ ringWindow t)

/-! ### LineAssembler -/

/-- LAIDLE (R171): nothing on an empty ring; the first byte goes to cell 0, the sentinel to cell 1. -/
def Obligations.LaidleStartsACycle : Prop :=
  ∀ s : State, s.inited = true → s.fg = .laIdle → s.scan.emitq = [] →
    (s.ring.count = 0 → exec .laidle s = .next { s with out := .unit }) ∧
    (s.ring.count ≠ 0 → s.ring.head < s.par.ringCap → 3 ≤ s.par.lineCap → exec .laidle s = .next
      { s with
        ring := { s.ring with head := (s.ring.head + 1) % s.par.ringCap, count := s.ring.count - 1 }
        buf := { cells := Memory.write (Memory.write s.buf.cells 0 (rbRead s s.ring.head)) 1 s.par.sent,
                 wr := 1#16, idle := 0#16 }
        fg := .laAcc
        out := .unit })

/-- LAACC (R172): one poll, then both end tests; the cycle ends with the cursor at 0 and the
rewriter started (order of poll, update and test: decision D26). -/
def Obligations.LaaccPollsOnce : Prop :=
  ∀ s : State, s.inited = true → s.fg = .laAcc → s.scan.emitq = [] → 3 ≤ s.par.lineCap →
    (s.ring.count = 0 → s.buf.wr.toNat < s.par.lineCap - 1 → s.buf.idle.toNat < 65535 →
      exec .laacc s = .next
        (if s.buf.idle.toNat + 1 = s.par.tIdle then
          { s with buf := { s.buf with idle := s.buf.idle + 1#16 }, scan := { s.scan with pos := 0#16 },
                   fg := .srStart, out := .unit }
        else { s with buf := { s.buf with idle := s.buf.idle + 1#16 }, out := .unit })) ∧
    (s.ring.count ≠ 0 → s.ring.head < s.par.ringCap → s.buf.wr.toNat + 1 ≤ s.par.lineCap - 1 →
      s.par.lineCap ≤ 65536 → 1 ≤ s.par.tIdle →
      ∃ (r : Ring) (u : LineBuffer),
        r = { s.ring with head := (s.ring.head + 1) % s.par.ringCap, count := s.ring.count - 1 } ∧
        u = { cells := Memory.write (Memory.write s.buf.cells s.buf.wr.toNat (rbRead s s.ring.head))
                (s.buf.wr.toNat + 1) s.par.sent,
              wr := s.buf.wr + 1#16, idle := 0#16 } ∧
        exec .laacc s = .next
          (if s.buf.wr.toNat + 1 = s.par.lineCap - 1 then
            { s with ring := r, buf := u, scan := { s.scan with pos := 0#16 }, fg := .srStart, out := .unit }
          else { s with ring := r, buf := u, out := .unit }))

/-- The bytes of a cycle are the bytes dequeued, in order (R175, R38): LAIDLE begins the line with its byte, LAACC
appends its byte or leaves the line. -/
def Obligations.LineHoldsTheDequeuedBytes : Prop :=
  ∀ s t : State, Inv s →
    (exec .laidle s = .next t → t.fg = .laAcc → s.fg = .laIdle →
      ∃ b, (ringWindow s).head? = some b ∧ lineBytes t = [b]) ∧
    (exec .laacc s = .next t → s.fg = .laAcc →
      (ringWindow s = [] → lineBytes t = lineBytes s) ∧
      (∀ b rest, ringWindow s = b :: rest → lineBytes t = lineBytes s ++ [b]))

/-- The idle-timeout law (R175): from `LA_Acc` with `idle = 0`, `T_IDLE` polls of an empty ring hand off, not one
sooner, with the line unchanged and the sentinel at its end. -/
def Obligations.IdleTimeoutLaw : Prop :=
  ∀ (s : State) (k : Nat), Inv s → s.inited = true → s.fg = .laAcc → s.buf.idle = 0#16 → s.ring.count = 0 →
    k ≤ s.par.tIdle →
    ∃ t, execAll (List.replicate k .laacc) s = .next t ∧ lineBytes t = lineBytes s ∧
      lbRead t t.buf.wr.toNat = s.par.sent ∧
      (k < s.par.tIdle → t.fg = .laAcc ∧ t.buf.idle.toNat = k) ∧
      (k = s.par.tIdle → t.fg = .srStart ∧ t.scan.pos = 0#16)

/-! ### SentenceRewriter -/

/-- The helper predicates of the scan as the rules word them: `AtEnd` and `Match` (R181), `Pad` (R188), and the test for
a suppressed line (R182): a prefix `P_SUP1` or `P_SUP2` that is set matches, and one left unset matches nothing (vector
W18, log 4; decisions D12, D13, D15, D16). -/
def Obligations.ScanTestsAsWorded : Prop :=
  ∀ (s : State) (p : Nat), 1 ≤ s.par.lineCap →
    (atEnd s p = true ↔ s.par.lineCap - 1 ≤ p ∨ lbRead s p = s.par.sent) ∧
    (∀ P : List Byte, matchAt s p P = true ↔
      ∀ (k : Nat) (b : Byte), P[k]? = some b → p + k ≤ s.par.lineCap - 1 ∧ lbRead s (p + k) = b) ∧
    (suppressedAt s p = true ↔ ∃ P : List Byte, (s.par.pSup1 = some P ∨ s.par.pSup2 = some P) ∧
      ∀ (k : Nat) (b : Byte), P[k]? = some b → p + k ≤ s.par.lineCap - 1 ∧ lbRead s (p + k) = b) ∧
    (s.par.pSup1 = none → s.par.pSup2 = none → suppressedAt s p = false) ∧
    (∀ field : Word, padAt s field p = true ↔
      field.toNat = s.par.targetField ∧ (1 ≤ p ∧ lbRead s (p - 1) = 0x2C#8) ∧
      (0x30 ≤ (lbRead s p).toNat ∧ (lbRead s p).toNat ≤ 0x39) ∧
      (p + 1 ≤ s.par.lineCap - 1 ∧ lbRead s (p + 1) = 0x2C#8))

/-- SRSTART (R182): the end, a suppressed line, the rewrite target, or a line passed through. -/
def Obligations.SrstartClassifies : Prop :=
  ∀ s : State, s.inited = true → s.fg = .srStart → s.scan.emitq = [] →
    (atEnd s s.scan.pos.toNat = true → exec .srstart s = .next { s with fg := .srEnd, out := .unit }) ∧
    (atEnd s s.scan.pos.toNat = false →
      (suppressedAt s s.scan.pos.toNat = true → exec .srstart s = .next
        { s with scan := { s.scan with txmark := false }, fg := .srRead, out := .unit }) ∧
      (suppressedAt s s.scan.pos.toNat = false → matchAt s s.scan.pos.toNat s.par.pTgt = true →
        exec .srstart s = .next
          { s with scan := { s.scan with field := 0#16, ck := 0#8 }, fg := .srParse, out := .unit }) ∧
      (suppressedAt s s.scan.pos.toNat = false → matchAt s s.scan.pos.toNat s.par.pTgt = false →
        exec .srstart s = .next
          { s with scan := { s.scan with txmark := true }, fg := .srRead, out := .unit }))

/-- SRREAD (R183): one byte of a line, emitted when `txmark`; a line feed or the boundary ends the line; in any other
control state, or with bytes to emit, it takes no step. -/
def Obligations.SrreadOneByte : Prop :=
  decode 0x3300000000#40 = .ok .srread ∧
  ∀ (s : State) (c : Byte), s.inited = true → c = lbRead s s.scan.pos.toNat →
    (s.fg = .srRead → s.scan.emitq = [] →
      (atEnd s s.scan.pos.toNat = true → exec .srread s = .next { s with fg := .srStart, out := .unit }) ∧
      (atEnd s s.scan.pos.toNat = false → exec .srread s = .next
        { s with
          scan := { s.scan with emitq := if s.scan.txmark then [c] else [], pos := s.scan.pos + 1#16 }
          fg := if c = 0x0A#8 then .srStart else .srRead
          out := .unit })) ∧
    (s.fg ≠ .srRead ∨ s.scan.emitq ≠ [] → ∀ t, exec .srread s = .next t → t.withOut s.out = s)

/-- SRPARSE (R184) on a byte that is neither the boundary nor `*`: the field index counts a comma, the checksum folds
every byte but `$`, a one-digit target field is padded. -/
def Obligations.SrparseScansOneByte : Prop :=
  ∀ (s : State) (c : Byte) (f : Word), s.inited = true → s.fg = .srParse → s.scan.emitq = [] →
    atEnd s s.scan.pos.toNat = false → c = lbRead s s.scan.pos.toNat → c ≠ 0x2A#8 →
    f = (if c = 0x2C#8 then s.scan.field + 1#16 else s.scan.field) →
    (padAt s f s.scan.pos.toNat = true → exec .srparse s = .next
      { s with
        scan := { s.scan with field := f, ck := s.scan.ck ^^^ c ^^^ 0x30#8, emitq := [0x30#8, c],
                              pos := s.scan.pos + 1#16 }
        out := .unit }) ∧
    (padAt s f s.scan.pos.toNat = false → exec .srparse s = .next
      { s with
        scan := { s.scan with field := f, ck := if c = 0x24#8 then s.scan.ck else s.scan.ck ^^^ c, emitq := [c],
                              pos := s.scan.pos + 1#16 }
        out := .unit })

/-- SRPARSE (R184, R185) at the boundary or at `*`: `Finish` emits the two hex digits of the checksum, high nibble
first, and a carriage return, skips, and returns to `StartLine`; past a `*` the cursor goes one further, and the `*` is
emitted under `STAR_EMITTED` (decision D17, log 14). -/
def Obligations.SrparseFinishes : Prop :=
  ∀ (s : State) (p : Nat) (tr : List Byte), s.inited = true → s.fg = .srParse → s.scan.emitq = [] →
    p = s.scan.pos.toNat → tr = [hexDigit (s.scan.ck.extractLsb' 4 4), hexDigit (s.scan.ck.extractLsb' 0 4), 0x0D#8] →
    (atEnd s p = true → exec .srparse s = .next
      { s with scan := { s.scan with emitq := tr, pos := s.scan.pos + BitVec.ofNat 16 s.par.skip }, fg := .srStart,
               out := .unit }) ∧
    (atEnd s p = false → lbRead s p = 0x2A#8 → exec .srparse s = .next
      { s with scan := { s.scan with emitq := (if s.par.starEmitted then [0x2A#8] else []) ++ tr,
                                     pos := s.scan.pos + 1#16 + BitVec.ofNat 16 s.par.skip },
               fg := .srStart, out := .unit })

/-- The hex-digit table and the trailer (R102, R282): upper-case ASCII digits, always two of them. -/
def Obligations.HexDigitsOfTheTrailer : Prop :=
  (∀ n : BitVec 4, (n.toNat < 10 → (hexDigit n).toNat = 0x30 + n.toNat) ∧
    (10 ≤ n.toNat → (hexDigit n).toNat = 0x41 + (n.toNat - 10))) ∧
  (∀ ck : Byte, trailer ck = [hexDigit (BitVec.ofNat 4 (ck.toNat / 16)), hexDigit (BitVec.ofNat 4 (ck.toNat % 16)),
    0x0D#8]) ∧
  trailer 0x00#8 = [0x30#8, 0x30#8, 0x0D#8] ∧ trailer 0x0A#8 = [0x30#8, 0x41#8, 0x0D#8] ∧
  trailer 0x6B#8 = [0x36#8, 0x42#8, 0x0D#8] ∧ trailer 0xFF#8 = [0x46#8, 0x46#8, 0x0D#8]

/-- SREND (R186): back to `LA_Idle`, nothing else changes; in any other control state, or with bytes to emit, it takes no
step. -/
def Obligations.SrendReturnsToIdle : Prop :=
  decode 0x3500000000#40 = .ok .srend ∧
  ∀ s : State, s.inited = true →
    (s.fg = .srEnd → s.scan.emitq = [] → exec .srend s = .next { s with fg := .laIdle, out := .unit }) ∧
    (s.fg ≠ .srEnd ∨ s.scan.emitq ≠ [] → ∀ t, exec .srend s = .next t → t.withOut s.out = s)

/-- SREMIT (R187): hands the oldest queued byte to the Transmitter; holds while it sends. -/
def Obligations.SremitHandsOver : Prop :=
  ∀ (s : State) (b : Byte) (q : List Byte), s.inited = true → s.fg.inRewriter = true → s.scan.emitq = b :: q →
    s.cfg.tx.isSome = true →
    (s.tx.busy = false → exec .sremit s = .next
      { s with
        tx := { sr := b, bits := 8#4, busy := true, line := spaceLevel s.par, armed := true }
        scan := { s.scan with emitq := q }
        txLog := s.txLog ++ [b]
        out := .unit }) ∧
    (s.tx.busy = true → exec .sremit s = .next { s with out := .held })

/-- The checksum law, step by step (R190): the SRSTART that enters the rewrite clears the checksum, and every SRPARSE
that does not finish folds exactly the bytes it puts on the queue, `$` excepted. -/
def Obligations.ChecksumFoldsTheEmittedBytes : Prop :=
  ∀ s t : State, s.scan.emitq = [] →
    (exec .srstart s = .next t → s.fg = .srStart → t.fg = .srParse → t.scan.ck = 0#8) ∧
    (exec .srparse s = .next t → s.fg = .srParse → t.fg = .srParse →
      t.scan.ck = s.scan.ck ^^^ foldChecksum t.scan.emitq)

/-- The suppression and pass-through law (R195), for a line that ends in a line feed below the boundary and for one whose
last byte stands before the boundary (the sentinel, or cell `N-1`), with no line feed: the pass comes back to `SR_Start`
past the line, having transmitted nothing of a suppressed line and exactly the bytes of a default line. -/
def Obligations.LineSuppressedOrPassedThrough : Prop :=
  ∀ (s : State) (body ending : List Byte), Inv s → PassReady s → s.fg = .srStart → s.scan.emitq = [] →
    (∀ b ∈ body, b ≠ 0x0A#8 ∧ b ≠ s.par.sent) →
    lbSlice s s.scan.pos.toNat (body.length + ending.length) = body ++ ending →
    ((ending = [0x0A#8] ∧ s.par.sent ≠ 0x0A#8 ∧ s.scan.pos.toNat + body.length + 2 ≤ s.par.lineCap) ∨
      (ending = [] ∧ body ≠ [] ∧ s.scan.pos.toNat + body.length + 1 ≤ s.par.lineCap ∧
        atEnd s (s.scan.pos.toNat + body.length) = true)) →
    (suppressedAt s s.scan.pos.toNat = true →
      ∃ n t, passSteps n s = .next t ∧ t.fg = .srStart ∧ t.scan.emitq = [] ∧
        t.scan.pos.toNat = s.scan.pos.toNat + body.length + ending.length ∧ t.txLog = s.txLog) ∧
    (suppressedAt s s.scan.pos.toNat = false → matchAt s s.scan.pos.toNat s.par.pTgt = false →
      ∃ n t, passSteps n s = .next t ∧ t.fg = .srStart ∧ t.scan.emitq = [] ∧
        t.scan.pos.toNat = s.scan.pos.toNat + body.length + ending.length ∧
        t.txLog = s.txLog ++ body ++ ending)

/-- The rewrite law (R191): a rewrite-target sentence whose `*` lies below the boundary is transmitted in order with a
`'0'` before each byte at which `Pad` holds, then `*` if `STAR_EMITTED`, the checksum of what was transmitted, and a carriage return; the
cursor ends `SKIP` bytes past the `*` (that the `*` is transmitted under `STAR_EMITTED`: decision D17, log 14). -/
def Obligations.SentenceIsRewritten : Prop :=
  ∀ (s : State) (body out : List Byte), Inv s → PassReady s → s.fg = .srStart → s.scan.emitq = [] →
    s.scan.pos.toNat + body.length + 2 ≤ s.par.lineCap →
    lbSlice s s.scan.pos.toNat (body.length + 1) = body ++ [0x2A#8] →
    (∀ b ∈ body, b ≠ 0x2A#8 ∧ b ≠ s.par.sent) → s.par.sent ≠ 0x2A#8 →
    suppressedAt s s.scan.pos.toNat = false → matchAt s s.scan.pos.toNat s.par.pTgt = true →
    out = rewrittenBody s s.scan.pos.toNat 0#16 body →
    ∃ n t, passSteps n s = .next t ∧ t.fg = .srStart ∧ t.scan.emitq = [] ∧
      t.txLog = s.txLog ++ out ++ (if s.par.starEmitted then [0x2A#8] else []) ++ trailer (foldChecksum out) ∧
      t.scan.pos.toNat = s.scan.pos.toNat + body.length + 1 + s.par.skip ∧ t.buf = s.buf

/-- Termination of a pass (R196): from any state of a pass, with the Transmitter idle, a bounded number of foreground
steps, each SREMIT followed by its nine ticks, reaches `SR_End` with nothing left to emit, and one more `LA_Idle`. -/
def Obligations.PassTerminates : Prop :=
  ∀ s : State, Inv s → PassReady s → s.fg.inRewriter = true →
    ∃ n u t, n + 1 ≤ 12 * s.par.lineCap + 16 ∧
      passSteps n s = .next u ∧ u.fg = .srEnd ∧ u.scan.emitq = [] ∧
      passSteps (n + 1) s = .next t ∧ t.fg = .laIdle ∧ t.scan.emitq = []

/-! ### The sequencer and the contexts -/

/-- R112: which sequencer operation is attached to a state, and that any other one holds (that an SREMIT which holds on
`tx.busy` does not count as enabled: log 19). -/
def Obligations.OneSequencerOperationIsEnabled : Prop :=
  ∀ s : State,
    (s.scan.emitq ≠ [] → s.fg.inRewriter = true → attachedOp s = some .sremit ∧
      (s.tx.busy = true → enabledOp s = none) ∧ (s.tx.busy = false → enabledOp s = some .sremit)) ∧
    (s.scan.emitq = [] →
      (s.fg = .laIdle → enabledOp s = some .laidle) ∧ (s.fg = .laAcc → enabledOp s = some .laacc) ∧
      (s.fg = .srStart → enabledOp s = some .srstart) ∧ (s.fg = .srRead → enabledOp s = some .srread) ∧
      (s.fg = .srParse → enabledOp s = some .srparse) ∧ (s.fg = .srEnd → enabledOp s = some .srend)) ∧
    (∀ i ∈ [Instr.laidle, .laacc, .srstart, .srread, .srparse, .srend, .sremit], s.inited = true →
      attachedOp s ≠ some i → exec i s = .next { s with out := .held })

/-- The control transfers of the sequencer (R284): an operation leaves `fg.state` or takes it along the table. -/
def Obligations.SequencerTransitions : Prop :=
  ∀ (i : Instr) (s t : State), exec i s = .next t → t.fg = s.fg ∨ t.fg ∈ sequencerMoves s.fg i

/-- Nothing that happens in an `SR_*` state writes the LineBuffer (R86, R173). -/
def Obligations.LineBufferFrozenDuringAPass : Prop :=
  ∀ (i : Instr) (s t : State), s.fg.inRewriter = true → exec i s = .next t → t.buf = s.buf

/-- Ownership by context (R216, R230): the event context and the environment never touch the foreground's state; the
foreground and the host never touch the Receiver, the receive line or the ring's producer side, but in INIT. -/
def Obligations.ContextsKeepTheirOwnership : Prop :=
  ∀ (i : Instr) (s t : State), exec i s = .next t →
    (Agent.foreground ∉ i.agents → ForegroundUntouched s t) ∧
    (Agent.foreground ∈ i.agents → (∀ a b, i ≠ .init a b) → EventUntouched s t)

/-- Two handlers that are due together give the same state in either order (R215). -/
def Obligations.HandlersCommute : Prop :=
  ∀ (s t u : State) (i : Instr), i = .rxtick ∨ i = .edge → s.tx.armed = true →
    exec .txtick s = .next t → exec i t = .next u → u.out ≠ .held → execAll [i, .txtick] s = .next u

/-- The transmit log grows only by the byte that enters `tx.sr` with a start bit (R146), and only through BEGINTX,
TXBYTE and SREMIT; the configuration is written by INIT and SETBAUD only (R35); INIT is never undone (R167); no
operation changes the parameters (R8) or the schedule. -/
def Obligations.WhoWritesWhat : Prop :=
  ∀ (i : Instr) (s t : State), exec i s = .next t →
    (t.txLog ≠ s.txLog → t.txLog = s.txLog ++ [t.tx.sr] ∧ t.tx.busy = true ∧ t.tx.line = spaceLevel s.par ∧
      ((∃ b, i = .begintx b ∨ i = .txbyte b) ∨ i = .sremit)) ∧
    (t.cfg ≠ s.cfg → ∃ a b, i = .init a b ∨ i = .setbaud a b) ∧
    (s.inited = true → t.inited = true) ∧ t.par = s.par ∧ t.sched = s.sched

/-- The conditions X1 to X4 are silent (R200 to R204): in a reachable state an operation that raises one still steps,
X1 leaves the stored bytes, X2 hands the full buffer over, X3 finishes the rewrite, X4 leaves the configuration of each
direction whose rate is unsupported. -/
def Obligations.ConditionsAreSilent : Prop :=
  ∀ (i : Instr) (s : State), Inv s →
    (conditionOf i s = some .receiveOverflow → ∃ t, exec i s = .next t ∧ t.ring = s.ring) ∧
    (conditionOf i s = some .lineBufferOverflow →
      ∃ t, exec i s = .next t ∧ t.fg = .srStart ∧ t.buf.wr.toNat = s.par.lineCap - 1) ∧
    (conditionOf i s = some .unterminatedSentence →
      ∃ t, exec i s = .next t ∧ t.fg = .srStart ∧ t.scan.emitq = trailer s.scan.ck) ∧
    (conditionOf i s = some .unsupportedRate → ∃ (a b : Nat) (t : State), (i = .init a b ∨ i = .setbaud a b) ∧
      exec i s = .next t ∧ (a ∉ s.par.rateTable.map Prod.fst ∨ b ∉ s.par.rateTable.map Prod.fst) ∧
      (a ∉ s.par.rateTable.map Prod.fst → t.cfg.tx = s.cfg.tx) ∧
      (b ∉ s.par.rateTable.map Prod.fst → t.cfg.rx = s.cfg.rx))

/-! ### Invariants -/

/-- Every step keeps the invariant of the block. -/
def Obligations.StepKeepsTheInvariant : Prop :=
  ∀ s t : State, Inv s → step s = .next t → Inv t

/-- The invariant holds after reset, for every parameter set of the sizes rule R8 allows, the reference one among
them. -/
def Obligations.ResetMeetsTheInvariant : Prop :=
  Inv State.reset ∧ ∀ c : Config, c.sizesOk = true → Inv (State.powerOn c)

/-- R54: from INIT on, `txt.armed = tx.busy` at every step boundary. -/
def Obligations.TransmitTimerFollowsBusy : Prop :=
  (∀ (s t : State) (a b : Nat), exec (.init a b) s = .next t → t.inited = true ∧ t.tx.armed = t.tx.busy) ∧
  (∀ s t : State, s.inited = true → s.tx.armed = s.tx.busy → step s = .next t →
    t.inited = true ∧ t.tx.armed = t.tx.busy)

/-- R55: from INIT on, `rxt.armed = rx.busy` and `edge_en = not rx.busy` at every step boundary. -/
def Obligations.ReceiveTimerAndEdgeFollowBusy : Prop :=
  (∀ (s t : State) (a b : Nat), exec (.init a b) s = .next t →
    t.inited = true ∧ t.rx.armed = t.rx.busy ∧ t.rx.edgeEn = !t.rx.busy) ∧
  (∀ s t : State, s.inited = true → s.rx.armed = s.rx.busy → s.rx.edgeEn = (!s.rx.busy) → step s = .next t →
    t.inited = true ∧ t.rx.armed = t.rx.busy ∧ t.rx.edgeEn = !t.rx.busy)

/-- R56: at every step boundary `0 <= rb.count <= C` and `rb.tail = (rb.head + rb.count) mod C`. -/
def Obligations.RingIndicesAgree : Prop :=
  (∀ c : Config, (State.powerOn c).ring.count ≤ c.ringCap ∧
    (State.powerOn c).ring.tail = ((State.powerOn c).ring.head + (State.powerOn c).ring.count) % c.ringCap) ∧
  (∀ s t : State, s.ring.count ≤ s.par.ringCap → s.ring.tail = (s.ring.head + s.ring.count) % s.par.ringCap →
    step s = .next t →
    t.ring.count ≤ t.par.ringCap ∧ t.ring.tail = (t.ring.head + t.ring.count) % t.par.ringCap)

/-! ### Frames: what stays when an operation answers a next state -/

/-- INIT writes no field but those of R161; SETBAUD none but `cfg`. -/
def Obligations.FrameOfInitAndSetbaud : Prop :=
  ∀ (s t : State) (a b : Nat),
    (exec (.init a b) s = .next t →
      t.par = s.par ∧ t.tx.sr = s.tx.sr ∧ t.tx.bits = s.tx.bits ∧ t.rx.sr = s.rx.sr ∧ t.rx.bits = s.rx.bits ∧
      t.rx.delay = s.rx.delay ∧ t.rxLine = s.rxLine ∧ t.fg = s.fg ∧ t.buf = s.buf ∧ t.scan = s.scan ∧
      t.txLog = s.txLog ∧ t.sched = s.sched ∧ ∀ x, lbRead t x = lbRead s x ∧ rbRead t x = rbRead s x) ∧
    (exec (.setbaud a b) s = .next t →
      t.par = s.par ∧ t.tx = s.tx ∧ t.rx = s.rx ∧ t.rxLine = s.rxLine ∧ t.ring = s.ring ∧ t.inited = s.inited ∧
      t.fg = s.fg ∧ t.buf = s.buf ∧ t.scan = s.scan ∧ t.txLog = s.txLog ∧ t.sched = s.sched ∧
      ∀ x, lbRead t x = lbRead s x ∧ rbRead t x = rbRead s x)

/-- TXBYTE, BEGINTX and TXTICK write the Transmitter; the first two also the transmit log. -/
def Obligations.FrameOfTransmitOperations : Prop :=
  ∀ (i : Instr) (s t : State), i = .txtick ∨ (∃ b, i = .txbyte b ∨ i = .begintx b) → exec i s = .next t →
    t.par = s.par ∧ t.rx = s.rx ∧ t.rxLine = s.rxLine ∧ t.ring = s.ring ∧ t.cfg = s.cfg ∧ t.inited = s.inited ∧
    t.fg = s.fg ∧ t.buf = s.buf ∧ t.scan = s.scan ∧ t.sched = s.sched ∧ (i = .txtick → t.txLog = s.txLog) ∧
    ∀ x, lbRead t x = lbRead s x ∧ rbRead t x = rbRead s x

/-- EDGE, LINE and RXTICK write the Receiver; LINE also the receive line, RXTICK also the producer side of the ring, at
the slot `rb.tail` and only at the eighth tick. -/
def Obligations.FrameOfReceiveOperations : Prop :=
  ∀ (i : Instr) (s t : State), i = .edge ∨ i = .rxtick ∨ (∃ l, i = .line l) → exec i s = .next t →
    t.par = s.par ∧ t.tx = s.tx ∧ t.cfg = s.cfg ∧ t.inited = s.inited ∧ t.fg = s.fg ∧ t.buf = s.buf ∧
    t.scan = s.scan ∧ t.txLog = s.txLog ∧ t.sched = s.sched ∧ t.ring.head = s.ring.head ∧
    (i ≠ .rxtick ∨ s.rx.bits.toNat < 7 → t.ring = s.ring) ∧ ((∀ l, i ≠ .line l) → t.rxLine = s.rxLine) ∧
    (∀ x, lbRead t x = lbRead s x) ∧ ∀ x, x ≠ s.ring.tail → rbRead t x = rbRead s x

/-- ENQ, DEQ and RXPOLL write the ring only, ENQ at the slot `rb.tail`; ISEMPTY writes nothing. -/
def Obligations.FrameOfRingOperations : Prop :=
  ∀ (i : Instr) (s t : State), i = .deq ∨ i = .rxpoll ∨ i = .isempty ∨ (∃ b, i = .enq b) → exec i s = .next t →
    t.par = s.par ∧ t.tx = s.tx ∧ t.rx = s.rx ∧ t.rxLine = s.rxLine ∧ t.cfg = s.cfg ∧ t.inited = s.inited ∧
    t.fg = s.fg ∧ t.buf = s.buf ∧ t.scan = s.scan ∧ t.txLog = s.txLog ∧ t.sched = s.sched ∧
    (i = .isempty → t.ring = s.ring) ∧
    (i = .deq ∨ i = .rxpoll → t.ring.tail = s.ring.tail ∧ ∀ x, rbRead t x = rbRead s x) ∧
    ((∃ b, i = .enq b) → t.ring.head = s.ring.head ∧ ∀ x, x ≠ s.ring.tail → rbRead t x = rbRead s x) ∧
    ∀ x, lbRead t x = lbRead s x

/-- LAIDLE and LAACC write the ring's consumer side, the LineBuffer, `fg.state`, and LAACC `pos`; LAIDLE stores to the
cells 0 and 1, LAACC to the cells `wr` and `wr + 1`, neither when the ring is empty. -/
def Obligations.FrameOfAssemblerOperations : Prop :=
  ∀ (i : Instr) (s t : State), i = .laidle ∨ i = .laacc → exec i s = .next t →
    t.par = s.par ∧ t.tx = s.tx ∧ t.rx = s.rx ∧ t.rxLine = s.rxLine ∧ t.cfg = s.cfg ∧ t.inited = s.inited ∧
    t.txLog = s.txLog ∧ t.sched = s.sched ∧ t.ring.tail = s.ring.tail ∧ (∀ x, rbRead t x = rbRead s x) ∧
    t.scan.field = s.scan.field ∧ t.scan.ck = s.scan.ck ∧ t.scan.txmark = s.scan.txmark ∧
    t.scan.emitq = s.scan.emitq ∧ (i = .laidle → t.scan = s.scan) ∧
    (s.ring.count = 0 → t.buf.cells = s.buf.cells ∧ t.buf.wr = s.buf.wr) ∧
    (i = .laidle → ∀ x, x ≠ 0 → x ≠ 1 → lbRead t x = lbRead s x) ∧
    (i = .laacc → ∀ x, x ≠ s.buf.wr.toNat → x ≠ (s.buf.wr + 1#16).toNat → lbRead t x = lbRead s x)

/-- The rewriter's operations write `fg.state` and the scan, SREMIT also the Transmitter and the transmit log; each
leaves the scan fields its rule does not name. -/
def Obligations.FrameOfRewriterOperations : Prop :=
  ∀ (i : Instr) (s t : State), i ∈ [Instr.srstart, .srread, .srparse, .srend, .sremit] → exec i s = .next t →
    t.par = s.par ∧ t.rx = s.rx ∧ t.rxLine = s.rxLine ∧ t.ring = s.ring ∧ t.cfg = s.cfg ∧ t.inited = s.inited ∧
    t.buf = s.buf ∧ t.sched = s.sched ∧ (i ≠ .sremit → t.tx = s.tx ∧ t.txLog = s.txLog) ∧
    (i = .srstart → t.scan.pos = s.scan.pos ∧ t.scan.emitq = s.scan.emitq) ∧
    (i = .srread → t.scan.field = s.scan.field ∧ t.scan.ck = s.scan.ck ∧ t.scan.txmark = s.scan.txmark) ∧
    (i = .srparse → t.scan.txmark = s.scan.txmark) ∧ (i = .srend → t.scan = s.scan) ∧
    (i = .sremit → t.fg = s.fg ∧ t.scan = { s.scan with emitq := t.scan.emitq }) ∧
    ∀ x, lbRead t x = lbRead s x ∧ rbRead t x = rbRead s x
end

