-- ==== Sys2Proof/Laws/Memory.lean ====
section
/-! SUPPORT. The byte memories: read after write, and that a write keeps the canonical form and the range. -/

namespace Sys2Proof.Machine

@[simp] theorem Memory.lookup_write_same (m : Memory) (a : Nat) (b : Byte) :
    Memory.lookup (Memory.write m a b) a = some b := by
  induction m with
  | nil => simp [Memory.write, Memory.lookup]
  | cons c m ih =>
    obtain ⟨k, v⟩ := c
    unfold Memory.write
    split
    · simp [Memory.lookup]
    · split
      · simp [Memory.lookup]
      · simp [Memory.lookup, *]

theorem Memory.lookup_write_other (m : Memory) {a a' : Nat} (b : Byte) (h : a' ≠ a) :
    Memory.lookup (Memory.write m a b) a' = Memory.lookup m a' := by
  induction m with
  | nil => simp [Memory.write, Memory.lookup, h]
  | cons c m ih =>
    obtain ⟨k, v⟩ := c
    unfold Memory.write
    split
    · simp [Memory.lookup, h]
    · split
      · subst_vars; simp [Memory.lookup, h]
      · simp [Memory.lookup, ih]

@[simp] theorem Memory.read_write_same (free : Nat → Byte) (m : Memory) (a : Nat) (b : Byte) :
    Memory.read free (Memory.write m a b) a = b := by simp [Memory.read]

theorem Memory.read_write_other (free : Nat → Byte) (m : Memory) {a a' : Nat} (b : Byte) (h : a' ≠ a) :
    Memory.read free (Memory.write m a b) a' = Memory.read free m a' := by
  simp [Memory.read, Memory.lookup_write_other m b h]

theorem Memory.read_of_lookup {free : Nat → Byte} {m : Memory} {a : Nat} {b : Byte}
    (h : Memory.lookup m a = some b) : Memory.read free m a = b := by simp [Memory.read, h]

theorem Memory.lookup_write_isSome {m : Memory} {a a' : Nat} {b : Byte}
    (h : (Memory.lookup m a').isSome = true) : (Memory.lookup (Memory.write m a b) a').isSome = true := by
  by_cases e : a' = a
  · subst e; simp
  · rwa [Memory.lookup_write_other m b e]

theorem Memory.risingFrom_write (m : Memory) (lo a : Nat) (b : Byte) (h : Memory.risingFrom lo m = true)
    (hlo : lo ≤ a) : Memory.risingFrom lo (Memory.write m a b) = true := by
  induction m generalizing lo with
  | nil => simpa [Memory.write, Memory.risingFrom] using hlo
  | cons c m ih =>
    obtain ⟨k, v⟩ := c
    simp only [Memory.risingFrom, Bool.and_eq_true, decide_eq_true_eq] at h
    unfold Memory.write
    split
    · simp [Memory.risingFrom, h, hlo]; omega
    · split
      · subst_vars; simp [Memory.risingFrom, h]
      · simp only [Memory.risingFrom, Bool.and_eq_true, decide_eq_true_eq]
        exact ⟨h.1, ih (k + 1) h.2 (by omega)⟩

/-- A write keeps the canonical form. -/
theorem Memory.wf_write {m : Memory} (a : Nat) (b : Byte) (h : Memory.wf m = true) :
    Memory.wf (Memory.write m a b) = true := Memory.risingFrom_write m 0 a b h (Nat.zero_le a)

/-- A write at a cell that exists keeps the range. -/
theorem Memory.within_write {n : Nat} {m : Memory} {a : Nat} (b : Byte) (h : Memory.within n m = true) (ha : a < n) :
    Memory.within n (Memory.write m a b) = true := by
  induction m with
  | nil => simpa [Memory.write, Memory.within] using ha
  | cons c m ih =>
    obtain ⟨k, v⟩ := c
    simp only [Memory.within, List.all_cons, Bool.and_eq_true, decide_eq_true_eq] at h ih
    unfold Memory.write
    split
    · simp only [Memory.within, List.all_cons, Bool.and_eq_true, decide_eq_true_eq]; exact ⟨ha, h⟩
    · split
      · simp only [Memory.within, List.all_cons, Bool.and_eq_true, decide_eq_true_eq]; exact ⟨ha, h.2⟩
      · simp only [Memory.within, List.all_cons, Bool.and_eq_true, decide_eq_true_eq]; exact ⟨h.1, ih h.2⟩

/-- The memories after reset are in canonical form. -/
theorem reset_memories_wf : Memory.wf State.reset.buf.cells = true ∧ Memory.wf State.reset.ring.cells = true :=
  ⟨rfl, rfl⟩

end Sys2Proof.Machine
end

