-- ==== Sys2Proof/Laws/State.lean ====
section
/-! SUPPORT. One lemma per field per setter of `State` (Machine/Ops.lean), all true by rfl. -/

namespace Sys2Proof.Machine

section
variable (s : State) (v : Transmitter)
@[simp] theorem State.withTx_par : (s.withTx v).par = s.par := rfl
@[simp] theorem State.withTx_tx : (s.withTx v).tx = v := rfl
@[simp] theorem State.withTx_rx : (s.withTx v).rx = s.rx := rfl
@[simp] theorem State.withTx_rxLine : (s.withTx v).rxLine = s.rxLine := rfl
@[simp] theorem State.withTx_ring : (s.withTx v).ring = s.ring := rfl
@[simp] theorem State.withTx_cfg : (s.withTx v).cfg = s.cfg := rfl
@[simp] theorem State.withTx_inited : (s.withTx v).inited = s.inited := rfl
@[simp] theorem State.withTx_fg : (s.withTx v).fg = s.fg := rfl
@[simp] theorem State.withTx_buf : (s.withTx v).buf = s.buf := rfl
@[simp] theorem State.withTx_scan : (s.withTx v).scan = s.scan := rfl
@[simp] theorem State.withTx_out : (s.withTx v).out = s.out := rfl
@[simp] theorem State.withTx_txLog : (s.withTx v).txLog = s.txLog := rfl
@[simp] theorem State.withTx_sched : (s.withTx v).sched = s.sched := rfl
end

section
variable (s : State) (v : Receiver)
@[simp] theorem State.withRx_par : (s.withRx v).par = s.par := rfl
@[simp] theorem State.withRx_tx : (s.withRx v).tx = s.tx := rfl
@[simp] theorem State.withRx_rx : (s.withRx v).rx = v := rfl
@[simp] theorem State.withRx_rxLine : (s.withRx v).rxLine = s.rxLine := rfl
@[simp] theorem State.withRx_ring : (s.withRx v).ring = s.ring := rfl
@[simp] theorem State.withRx_cfg : (s.withRx v).cfg = s.cfg := rfl
@[simp] theorem State.withRx_inited : (s.withRx v).inited = s.inited := rfl
@[simp] theorem State.withRx_fg : (s.withRx v).fg = s.fg := rfl
@[simp] theorem State.withRx_buf : (s.withRx v).buf = s.buf := rfl
@[simp] theorem State.withRx_scan : (s.withRx v).scan = s.scan := rfl
@[simp] theorem State.withRx_out : (s.withRx v).out = s.out := rfl
@[simp] theorem State.withRx_txLog : (s.withRx v).txLog = s.txLog := rfl
@[simp] theorem State.withRx_sched : (s.withRx v).sched = s.sched := rfl
end

section
variable (s : State) (v : Level)
@[simp] theorem State.withRxLine_par : (s.withRxLine v).par = s.par := rfl
@[simp] theorem State.withRxLine_tx : (s.withRxLine v).tx = s.tx := rfl
@[simp] theorem State.withRxLine_rx : (s.withRxLine v).rx = s.rx := rfl
@[simp] theorem State.withRxLine_rxLine : (s.withRxLine v).rxLine = v := rfl
@[simp] theorem State.withRxLine_ring : (s.withRxLine v).ring = s.ring := rfl
@[simp] theorem State.withRxLine_cfg : (s.withRxLine v).cfg = s.cfg := rfl
@[simp] theorem State.withRxLine_inited : (s.withRxLine v).inited = s.inited := rfl
@[simp] theorem State.withRxLine_fg : (s.withRxLine v).fg = s.fg := rfl
@[simp] theorem State.withRxLine_buf : (s.withRxLine v).buf = s.buf := rfl
@[simp] theorem State.withRxLine_scan : (s.withRxLine v).scan = s.scan := rfl
@[simp] theorem State.withRxLine_out : (s.withRxLine v).out = s.out := rfl
@[simp] theorem State.withRxLine_txLog : (s.withRxLine v).txLog = s.txLog := rfl
@[simp] theorem State.withRxLine_sched : (s.withRxLine v).sched = s.sched := rfl
end

section
variable (s : State) (v : Ring)
@[simp] theorem State.withRing_par : (s.withRing v).par = s.par := rfl
@[simp] theorem State.withRing_tx : (s.withRing v).tx = s.tx := rfl
@[simp] theorem State.withRing_rx : (s.withRing v).rx = s.rx := rfl
@[simp] theorem State.withRing_rxLine : (s.withRing v).rxLine = s.rxLine := rfl
@[simp] theorem State.withRing_ring : (s.withRing v).ring = v := rfl
@[simp] theorem State.withRing_cfg : (s.withRing v).cfg = s.cfg := rfl
@[simp] theorem State.withRing_inited : (s.withRing v).inited = s.inited := rfl
@[simp] theorem State.withRing_fg : (s.withRing v).fg = s.fg := rfl
@[simp] theorem State.withRing_buf : (s.withRing v).buf = s.buf := rfl
@[simp] theorem State.withRing_scan : (s.withRing v).scan = s.scan := rfl
@[simp] theorem State.withRing_out : (s.withRing v).out = s.out := rfl
@[simp] theorem State.withRing_txLog : (s.withRing v).txLog = s.txLog := rfl
@[simp] theorem State.withRing_sched : (s.withRing v).sched = s.sched := rfl
end

section
variable (s : State) (v : Baud)
@[simp] theorem State.withCfg_par : (s.withCfg v).par = s.par := rfl
@[simp] theorem State.withCfg_tx : (s.withCfg v).tx = s.tx := rfl
@[simp] theorem State.withCfg_rx : (s.withCfg v).rx = s.rx := rfl
@[simp] theorem State.withCfg_rxLine : (s.withCfg v).rxLine = s.rxLine := rfl
@[simp] theorem State.withCfg_ring : (s.withCfg v).ring = s.ring := rfl
@[simp] theorem State.withCfg_cfg : (s.withCfg v).cfg = v := rfl
@[simp] theorem State.withCfg_inited : (s.withCfg v).inited = s.inited := rfl
@[simp] theorem State.withCfg_fg : (s.withCfg v).fg = s.fg := rfl
@[simp] theorem State.withCfg_buf : (s.withCfg v).buf = s.buf := rfl
@[simp] theorem State.withCfg_scan : (s.withCfg v).scan = s.scan := rfl
@[simp] theorem State.withCfg_out : (s.withCfg v).out = s.out := rfl
@[simp] theorem State.withCfg_txLog : (s.withCfg v).txLog = s.txLog := rfl
@[simp] theorem State.withCfg_sched : (s.withCfg v).sched = s.sched := rfl
end

section
variable (s : State) (v : Bool)
@[simp] theorem State.withInited_par : (s.withInited v).par = s.par := rfl
@[simp] theorem State.withInited_tx : (s.withInited v).tx = s.tx := rfl
@[simp] theorem State.withInited_rx : (s.withInited v).rx = s.rx := rfl
@[simp] theorem State.withInited_rxLine : (s.withInited v).rxLine = s.rxLine := rfl
@[simp] theorem State.withInited_ring : (s.withInited v).ring = s.ring := rfl
@[simp] theorem State.withInited_cfg : (s.withInited v).cfg = s.cfg := rfl
@[simp] theorem State.withInited_inited : (s.withInited v).inited = v := rfl
@[simp] theorem State.withInited_fg : (s.withInited v).fg = s.fg := rfl
@[simp] theorem State.withInited_buf : (s.withInited v).buf = s.buf := rfl
@[simp] theorem State.withInited_scan : (s.withInited v).scan = s.scan := rfl
@[simp] theorem State.withInited_out : (s.withInited v).out = s.out := rfl
@[simp] theorem State.withInited_txLog : (s.withInited v).txLog = s.txLog := rfl
@[simp] theorem State.withInited_sched : (s.withInited v).sched = s.sched := rfl
end

section
variable (s : State) (v : FgState)
@[simp] theorem State.withFg_par : (s.withFg v).par = s.par := rfl
@[simp] theorem State.withFg_tx : (s.withFg v).tx = s.tx := rfl
@[simp] theorem State.withFg_rx : (s.withFg v).rx = s.rx := rfl
@[simp] theorem State.withFg_rxLine : (s.withFg v).rxLine = s.rxLine := rfl
@[simp] theorem State.withFg_ring : (s.withFg v).ring = s.ring := rfl
@[simp] theorem State.withFg_cfg : (s.withFg v).cfg = s.cfg := rfl
@[simp] theorem State.withFg_inited : (s.withFg v).inited = s.inited := rfl
@[simp] theorem State.withFg_fg : (s.withFg v).fg = v := rfl
@[simp] theorem State.withFg_buf : (s.withFg v).buf = s.buf := rfl
@[simp] theorem State.withFg_scan : (s.withFg v).scan = s.scan := rfl
@[simp] theorem State.withFg_out : (s.withFg v).out = s.out := rfl
@[simp] theorem State.withFg_txLog : (s.withFg v).txLog = s.txLog := rfl
@[simp] theorem State.withFg_sched : (s.withFg v).sched = s.sched := rfl
end

section
variable (s : State) (v : LineBuffer)
@[simp] theorem State.withBuf_par : (s.withBuf v).par = s.par := rfl
@[simp] theorem State.withBuf_tx : (s.withBuf v).tx = s.tx := rfl
@[simp] theorem State.withBuf_rx : (s.withBuf v).rx = s.rx := rfl
@[simp] theorem State.withBuf_rxLine : (s.withBuf v).rxLine = s.rxLine := rfl
@[simp] theorem State.withBuf_ring : (s.withBuf v).ring = s.ring := rfl
@[simp] theorem State.withBuf_cfg : (s.withBuf v).cfg = s.cfg := rfl
@[simp] theorem State.withBuf_inited : (s.withBuf v).inited = s.inited := rfl
@[simp] theorem State.withBuf_fg : (s.withBuf v).fg = s.fg := rfl
@[simp] theorem State.withBuf_buf : (s.withBuf v).buf = v := rfl
@[simp] theorem State.withBuf_scan : (s.withBuf v).scan = s.scan := rfl
@[simp] theorem State.withBuf_out : (s.withBuf v).out = s.out := rfl
@[simp] theorem State.withBuf_txLog : (s.withBuf v).txLog = s.txLog := rfl
@[simp] theorem State.withBuf_sched : (s.withBuf v).sched = s.sched := rfl
end

section
variable (s : State) (v : Scan)
@[simp] theorem State.withScan_par : (s.withScan v).par = s.par := rfl
@[simp] theorem State.withScan_tx : (s.withScan v).tx = s.tx := rfl
@[simp] theorem State.withScan_rx : (s.withScan v).rx = s.rx := rfl
@[simp] theorem State.withScan_rxLine : (s.withScan v).rxLine = s.rxLine := rfl
@[simp] theorem State.withScan_ring : (s.withScan v).ring = s.ring := rfl
@[simp] theorem State.withScan_cfg : (s.withScan v).cfg = s.cfg := rfl
@[simp] theorem State.withScan_inited : (s.withScan v).inited = s.inited := rfl
@[simp] theorem State.withScan_fg : (s.withScan v).fg = s.fg := rfl
@[simp] theorem State.withScan_buf : (s.withScan v).buf = s.buf := rfl
@[simp] theorem State.withScan_scan : (s.withScan v).scan = v := rfl
@[simp] theorem State.withScan_out : (s.withScan v).out = s.out := rfl
@[simp] theorem State.withScan_txLog : (s.withScan v).txLog = s.txLog := rfl
@[simp] theorem State.withScan_sched : (s.withScan v).sched = s.sched := rfl
end

section
variable (s : State) (v : Result)
@[simp] theorem State.withOut_par : (s.withOut v).par = s.par := rfl
@[simp] theorem State.withOut_tx : (s.withOut v).tx = s.tx := rfl
@[simp] theorem State.withOut_rx : (s.withOut v).rx = s.rx := rfl
@[simp] theorem State.withOut_rxLine : (s.withOut v).rxLine = s.rxLine := rfl
@[simp] theorem State.withOut_ring : (s.withOut v).ring = s.ring := rfl
@[simp] theorem State.withOut_cfg : (s.withOut v).cfg = s.cfg := rfl
@[simp] theorem State.withOut_inited : (s.withOut v).inited = s.inited := rfl
@[simp] theorem State.withOut_fg : (s.withOut v).fg = s.fg := rfl
@[simp] theorem State.withOut_buf : (s.withOut v).buf = s.buf := rfl
@[simp] theorem State.withOut_scan : (s.withOut v).scan = s.scan := rfl
@[simp] theorem State.withOut_out : (s.withOut v).out = v := rfl
@[simp] theorem State.withOut_txLog : (s.withOut v).txLog = s.txLog := rfl
@[simp] theorem State.withOut_sched : (s.withOut v).sched = s.sched := rfl
end

section
variable (s : State) (v : List Byte)
@[simp] theorem State.withTxLog_par : (s.withTxLog v).par = s.par := rfl
@[simp] theorem State.withTxLog_tx : (s.withTxLog v).tx = s.tx := rfl
@[simp] theorem State.withTxLog_rx : (s.withTxLog v).rx = s.rx := rfl
@[simp] theorem State.withTxLog_rxLine : (s.withTxLog v).rxLine = s.rxLine := rfl
@[simp] theorem State.withTxLog_ring : (s.withTxLog v).ring = s.ring := rfl
@[simp] theorem State.withTxLog_cfg : (s.withTxLog v).cfg = s.cfg := rfl
@[simp] theorem State.withTxLog_inited : (s.withTxLog v).inited = s.inited := rfl
@[simp] theorem State.withTxLog_fg : (s.withTxLog v).fg = s.fg := rfl
@[simp] theorem State.withTxLog_buf : (s.withTxLog v).buf = s.buf := rfl
@[simp] theorem State.withTxLog_scan : (s.withTxLog v).scan = s.scan := rfl
@[simp] theorem State.withTxLog_out : (s.withTxLog v).out = s.out := rfl
@[simp] theorem State.withTxLog_txLog : (s.withTxLog v).txLog = v := rfl
@[simp] theorem State.withTxLog_sched : (s.withTxLog v).sched = s.sched := rfl
end

section
variable (s : State) (v : List OpWord)
@[simp] theorem State.withSched_par : (s.withSched v).par = s.par := rfl
@[simp] theorem State.withSched_tx : (s.withSched v).tx = s.tx := rfl
@[simp] theorem State.withSched_rx : (s.withSched v).rx = s.rx := rfl
@[simp] theorem State.withSched_rxLine : (s.withSched v).rxLine = s.rxLine := rfl
@[simp] theorem State.withSched_ring : (s.withSched v).ring = s.ring := rfl
@[simp] theorem State.withSched_cfg : (s.withSched v).cfg = s.cfg := rfl
@[simp] theorem State.withSched_inited : (s.withSched v).inited = s.inited := rfl
@[simp] theorem State.withSched_fg : (s.withSched v).fg = s.fg := rfl
@[simp] theorem State.withSched_buf : (s.withSched v).buf = s.buf := rfl
@[simp] theorem State.withSched_scan : (s.withSched v).scan = s.scan := rfl
@[simp] theorem State.withSched_out : (s.withSched v).out = s.out := rfl
@[simp] theorem State.withSched_txLog : (s.withSched v).txLog = s.txLog := rfl
@[simp] theorem State.withSched_sched : (s.withSched v).sched = v := rfl
end

end Sys2Proof.Machine
end

