-- ==== Sys2Proof/Laws/Ops.lean ====
section
/-! SUPPORT. For each shared operation, one lemma that says everything it can do. -/

namespace Sys2Proof.Machine

/-! ### Answers and gates: what a next state through each of them means -/

@[simp] theorem answer_next {s t : State} {r : Result} : answer s r = .next t ↔ s.withOut r = t := by simp [answer]

@[simp] theorem held_next {s t : State} : held s = .next t ↔ s.withOut .held = t := by simp [held]

@[simp] theorem orFault_next {α : Type} {r : Except Fault α} {k : α → Outcome} {t : State} :
    orFault r k = .next t ↔ ∃ a, r = .ok a ∧ k a = .next t := by cases r <;> simp [orFault]

@[simp] theorem needInit_next {s t : State} {k : Outcome} :
    needInit s k = .next t ↔ s.inited = true ∧ k = .next t := by unfold needInit; split <;> simp_all

@[simp] theorem needTxConfig_next {s t : State} {k : Outcome} :
    needTxConfig s k = .next t ↔ s.cfg.tx.isSome = true ∧ k = .next t := by unfold needTxConfig; split <;> simp_all

@[simp] theorem needRxConfig_next {s t : State} {k : Outcome} :
    needRxConfig s k = .next t ↔ s.cfg.rx.isSome = true ∧ k = .next t := by unfold needRxConfig; split <;> simp_all

theorem sequencerGate_next {i : Instr} {s t : State} {k : Outcome} :
    sequencerGate i s k = .next t ↔
      s.inited = true ∧ ((attachedOp s = some i ∧ k = .next t) ∨ (attachedOp s ≠ some i ∧ s.withOut .held = t)) := by
  unfold sequencerGate; rw [needInit_next]; split <;> simp_all

/-! ### Memory accesses -/

theorem lbWrite_ok {s t : State} {i : Nat} {b : Byte} :
    lbWrite s i b = .ok t ↔
      i < s.par.lineCap ∧ s.withBuf { s.buf with cells := Memory.write s.buf.cells i b } = t := by
  unfold lbWrite; split <;> simp_all

/-- The state after a byte is stored at cursor `at_` (R171, R172). -/
def stored (s : State) (at_ : Word) (b : Byte) : State :=
  s.withBuf
    { cells := Memory.write (Memory.write s.buf.cells at_.toNat b) (at_ + 1#16).toNat s.par.sent
      wr := at_ + 1#16
      idle := 0#16 }

theorem storeByte_ok {s t : State} {at_ : Word} {b : Byte} :
    storeByte s at_ b = .ok t ↔
      at_.toNat < s.par.lineCap ∧ (at_ + 1#16).toNat < s.par.lineCap ∧ stored s at_ b = t := by
  unfold storeByte lbWrite stored
  generalize at_ + 1#16 = next
  by_cases h1 : at_.toNat < s.par.lineCap <;> by_cases h2 : next.toNat < s.par.lineCap <;>
    simp [h1, h2, Except.bind, Except.map, State.withBuf]

/-! ### The ring -/

/-- The ring after a byte is stored (R131). -/
def Ring.put (c : Config) (r : Ring) (b : Byte) : Ring :=
  { cells := Memory.write r.cells r.tail b, head := r.head, tail := ringNext c r.tail, count := r.count + 1 }

/-- The ring after its oldest byte is taken (R132). -/
def Ring.drop (c : Config) (r : Ring) : Ring :=
  { cells := r.cells, head := ringNext c r.head, tail := r.tail, count := r.count - 1 }

theorem enqueue_ok {s t : State} {b : Byte} {ok : Bool} :
    enqueue s b = .ok (ok, t) ↔
      (s.ring.count = s.par.ringCap ∧ ok = false ∧ s = t) ∨
      (s.ring.count ≠ s.par.ringCap ∧ s.ring.tail < s.par.ringCap ∧ ok = true ∧
        s.withRing (s.ring.put s.par b) = t) := by
  unfold enqueue
  by_cases h1 : s.ring.count = s.par.ringCap <;> by_cases h2 : s.ring.tail < s.par.ringCap <;>
    simp [h1, h2, Ring.put]

theorem dequeue_ok {s t : State} {r : Option Byte} :
    dequeue s = .ok (r, t) ↔
      (s.ring.count = 0 ∧ r = none ∧ s = t) ∨
      (s.ring.count ≠ 0 ∧ s.ring.head < s.par.ringCap ∧ r = some (rbRead s s.ring.head) ∧
        s.withRing (s.ring.drop s.par) = t) := by
  unfold dequeue
  by_cases h1 : s.ring.count = 0 <;> by_cases h2 : s.ring.head < s.par.ringCap <;>
    simp [h1, h2, Ring.drop, eq_comm (a := r)]

/-! ### Reads -/

@[simp] theorem lbRead_withOut (s : State) (v : Result) (i : Nat) : lbRead (s.withOut v) i = lbRead s i := rfl
@[simp] theorem lbRead_withScan (s : State) (v : Scan) (i : Nat) : lbRead (s.withScan v) i = lbRead s i := rfl
@[simp] theorem lbRead_withFg (s : State) (v : FgState) (i : Nat) : lbRead (s.withFg v) i = lbRead s i := rfl
@[simp] theorem lbRead_withRing (s : State) (v : Ring) (i : Nat) : lbRead (s.withRing v) i = lbRead s i := rfl
@[simp] theorem lbRead_withTx (s : State) (v : Transmitter) (i : Nat) : lbRead (s.withTx v) i = lbRead s i := rfl
@[simp] theorem lbRead_withTxLog (s : State) (v : List Byte) (i : Nat) : lbRead (s.withTxLog v) i = lbRead s i := rfl

/-! ### The Transmitter's tick and the sequencer's attachment -/

/-- The three cases of the transmit tick (R142). -/
theorem Transmitter.tick_cases (c : Config) (t : Transmitter) :
    (t.busy = false ∧ t.tick c = { t with armed := false }) ∨
    (t.busy = true ∧ t.bits ≠ 0#4 ∧ t.tick c =
      { sr := t.sr >>> 1, bits := t.bits - 1#4, busy := true, line := levelOf c (t.sr.getLsbD 0), armed := true }) ∨
    (t.busy = true ∧ t.bits = 0#4 ∧ t.tick c = { t with line := markLevel c, busy := false, armed := false }) := by
  unfold Transmitter.tick
  by_cases h1 : t.busy = false <;> by_cases h2 : t.bits = 0#4 <;> simp_all

/-- When an operation is attached to a state (R112). -/
theorem attachedOp_eq {s : State} {i : Instr} :
    attachedOp s = some i ↔
      (s.scan.emitq = [] ∧ s.fg.operation = i) ∨
      (s.scan.emitq ≠ [] ∧ s.fg.inRewriter = true ∧ i = .sremit) := by
  unfold attachedOp
  cases h : s.scan.emitq with
  | nil => simp
  | cons b bs => cases h2 : s.fg.inRewriter <;> simp [eq_comm]

theorem FgState.operation_eq_sremit (f : FgState) : f.operation ≠ .sremit := by cases f <;> simp [FgState.operation]

end Sys2Proof.Machine
end

