-- ==== Sys2Proof/Laws/Exec.lean ====
section
/-! SUPPORT. For each operation, one lemma that says exactly when it answers a next state, and which; the same for
`step`. -/

namespace Sys2Proof.Machine

theorem execInit_next {a b : Nat} {s t : State} :
    execInit a b s = .next t ↔ s.inited = false ∧ (initialise s a b).withOut (resolveResult s a b) = t := by
  unfold execInit; split <;> simp_all

theorem execSetbaud_next {a b : Nat} {s t : State} :
    execSetbaud a b s = .next t ↔
      s.inited = true ∧ (s.withCfg (resolveBoth s a b)).withOut (resolveResult s a b) = t := by simp [execSetbaud]

theorem execTxbyte_next {b : Byte} {s t : State} :
    execTxbyte b s = .next t ↔ s.inited = true ∧ s.cfg.tx.isSome = true ∧
      ((s.tx.busy = true ∧ s.withOut .held = t) ∨
       (s.tx.busy = false ∧ (beginFrame s b).withOut .unit = t)) := by
  unfold execTxbyte; rw [needInit_next, needTxConfig_next]; split <;> simp_all

theorem execBegintx_next {b : Byte} {s t : State} :
    execBegintx b s = .next t ↔ s.inited = true ∧ s.cfg.tx.isSome = true ∧ s.tx.busy = false ∧
      (beginFrame s b).withOut .unit = t := by
  unfold execBegintx; rw [needInit_next, needTxConfig_next]; split <;> simp_all

theorem execRxpoll_next {s t : State} :
    execRxpoll s = .next t ↔ s.inited = true ∧ ∃ r u, dequeue s = .ok (r, u) ∧ u.withOut (.byte r) = t := by
  simp [execRxpoll]

theorem execTxtick_next {s t : State} :
    execTxtick s = .next t ↔
      (s.tx.armed = false ∧ s.withOut .held = t) ∨
      (s.tx.armed = true ∧ (s.withTx (s.tx.tick s.par)).withOut .unit = t) := by
  unfold execTxtick; split <;> simp_all

theorem startEdge_next {s t : State} :
    startEdge s = .next t ↔ s.cfg.rx.isSome = true ∧ (s.withRx s.rx.start).withOut .unit = t := by simp [startEdge]

theorem execEdge_next {s t : State} :
    execEdge s = .next t ↔
      ((s.inited && s.rx.edgeEn) = false ∧ s.withOut .held = t) ∨
      ((s.inited && s.rx.edgeEn) = true ∧ s.cfg.rx.isSome = true ∧ (s.withRx s.rx.start).withOut .unit = t) := by
  unfold execEdge
  by_cases h : (s.inited && s.rx.edgeEn) = true
  · rw [if_pos h, startEdge_next]; simp [h]
  · rw [if_neg h, held_next]; simp [h]

theorem execLine_next {l : Level} {s t : State} :
    execLine l s = .next t ↔
      (edgeFires s l = false ∧ (s.withRxLine l).withOut .unit = t) ∨
      (edgeFires s l = true ∧ s.cfg.rx.isSome = true ∧
        ((s.withRxLine l).withRx s.rx.start).withOut .unit = t) := by
  unfold execLine; split <;> simp_all [startEdge_next]

theorem execRxtick_next {s t : State} :
    execRxtick s = .next t ↔
      (s.rx.armed = false ∧ s.withOut .held = t) ∨
      (s.rx.armed = true ∧ s.rx.busy = true ∧ (s.rx.bits + 1#4).toNat < 8 ∧
        (s.withRx (s.rx.sample s.par s.rxLine).rearm).withOut .unit = t) ∨
      (s.rx.armed = true ∧ s.rx.busy = true ∧ 8 ≤ (s.rx.bits + 1#4).toNat ∧
        ∃ ok u, enqueue s (s.rx.sample s.par s.rxLine).sr = .ok (ok, u) ∧
          (u.withRx (s.rx.sample s.par s.rxLine).finish).withOut .unit = t) := by
  have e : (s.rx.sample s.par s.rxLine).bits = s.rx.bits + 1#4 := rfl
  unfold execRxtick
  simp only [e]
  generalize s.rx.bits + 1#4 = n
  rcases Bool.eq_false_or_eq_true s.rx.armed with h1 | h1
  · rcases Bool.eq_false_or_eq_true s.rx.busy with h2 | h2
    · by_cases h3 : n.toNat < 8
      · simp [h1, h2, h3]
      · simp [h1, h2, h3, Nat.le_of_not_lt h3]
    · simp [h1, h2]
  · simp [h1]

theorem execEnq_next {b : Byte} {s t : State} :
    execEnq b s = .next t ↔ ∃ ok u, enqueue s b = .ok (ok, u) ∧ u.withOut (.bool ok) = t := by simp [execEnq]

theorem execDeq_next {s t : State} :
    execDeq s = .next t ↔ ∃ r u, dequeue s = .ok (r, u) ∧ u.withOut (.byte r) = t := by simp [execDeq]

theorem execIsempty_next {s t : State} :
    execIsempty s = .next t ↔ s.withOut (.bool (decide (s.ring.count = 0))) = t := by simp [execIsempty]

theorem execLaidle_next {s t : State} :
    execLaidle s = .next t ↔ s.inited = true ∧
      ((attachedOp s ≠ some .laidle ∧ s.withOut .held = t) ∨
       (attachedOp s = some .laidle ∧ ∃ r u, dequeue s = .ok (r, u) ∧
        ((r = none ∧ u.withOut .unit = t) ∨
         ∃ b v, r = some b ∧ storeByte u 0#16 b = .ok v ∧ (v.withFg .laAcc).withOut .unit = t))) := by
  unfold execLaidle; rw [sequencerGate_next, orFault_next]
  constructor
  · rintro ⟨h, ⟨h1, ⟨r, u⟩, h2, h3⟩ | h1⟩
    · refine ⟨h, .inr ⟨h1, r, u, h2, ?_⟩⟩
      cases r with
      | none => simpa using h3
      | some b => rw [orFault_next] at h3; obtain ⟨v, h4, h5⟩ := h3; exact .inr ⟨b, v, rfl, h4, by simpa using h5⟩
    · exact ⟨h, .inl h1⟩
  · rintro ⟨h, h1 | ⟨h1, r, u, h2, ⟨rfl, h3⟩ | ⟨b, v, rfl, h4, h5⟩⟩⟩
    · exact ⟨h, .inr h1⟩
    · exact ⟨h, .inl ⟨h1, _, h2, by simpa using h3⟩⟩
    · exact ⟨h, .inl ⟨h1, _, h2, by rw [orFault_next]; exact ⟨v, h4, by simpa using h5⟩⟩⟩

theorem execLaacc_next {s t : State} :
    execLaacc s = .next t ↔ s.inited = true ∧
      ((attachedOp s ≠ some .laacc ∧ s.withOut .held = t) ∨
       (attachedOp s = some .laacc ∧ ∃ r u, dequeue s = .ok (r, u) ∧
        ((r = none ∧ (endCycle (countIdle u)).withOut .unit = t) ∨
         ∃ b v, r = some b ∧ storeByte u u.buf.wr b = .ok v ∧ (endCycle v).withOut .unit = t))) := by
  unfold execLaacc; rw [sequencerGate_next, orFault_next]
  constructor
  · rintro ⟨h, ⟨h1, ⟨r, u⟩, h2, h3⟩ | h1⟩
    · refine ⟨h, .inr ⟨h1, r, u, h2, ?_⟩⟩
      cases r with
      | none => simpa using h3
      | some b => rw [orFault_next] at h3; obtain ⟨v, h4, h5⟩ := h3; exact .inr ⟨b, v, rfl, h4, by simpa using h5⟩
    · exact ⟨h, .inl h1⟩
  · rintro ⟨h, h1 | ⟨h1, r, u, h2, ⟨rfl, h3⟩ | ⟨b, v, rfl, h4, h5⟩⟩⟩
    · exact ⟨h, .inr h1⟩
    · exact ⟨h, .inl ⟨h1, _, h2, by simpa using h3⟩⟩
    · exact ⟨h, .inl ⟨h1, _, h2, by rw [orFault_next]; exact ⟨v, h4, by simpa using h5⟩⟩⟩

theorem execSrstart_next {s t : State} :
    execSrstart s = .next t ↔ s.inited = true ∧
      ((attachedOp s = some .srstart ∧ (classifyLine s).withOut .unit = t) ∨
       (attachedOp s ≠ some .srstart ∧ s.withOut .held = t)) := by
  simp [execSrstart, sequencerGate_next]

theorem execSrread_next {s t : State} :
    execSrread s = .next t ↔ s.inited = true ∧
      ((attachedOp s = some .srread ∧ (readByte s).withOut .unit = t) ∨
       (attachedOp s ≠ some .srread ∧ s.withOut .held = t)) := by
  simp [execSrread, sequencerGate_next]

theorem execSrparse_next {s t : State} :
    execSrparse s = .next t ↔ s.inited = true ∧
      ((attachedOp s = some .srparse ∧ (parseStep s).withOut .unit = t) ∨
       (attachedOp s ≠ some .srparse ∧ s.withOut .held = t)) := by
  simp [execSrparse, sequencerGate_next]

theorem execSrend_next {s t : State} :
    execSrend s = .next t ↔ s.inited = true ∧
      ((attachedOp s = some .srend ∧ (s.withFg .laIdle).withOut .unit = t) ∨
       (attachedOp s ≠ some .srend ∧ s.withOut .held = t)) := by
  simp [execSrend, sequencerGate_next]

theorem execSremit_next {s t : State} :
    execSremit s = .next t ↔ s.inited = true ∧
      ((attachedOp s = some .sremit ∧ s.cfg.tx.isSome = true ∧ s.tx.busy = true ∧ s.withOut .held = t) ∨
       (attachedOp s = some .sremit ∧ s.cfg.tx.isSome = true ∧ s.tx.busy = false ∧
         (beginFrame (dropEmitted s) (s.scan.emitq.headD 0#8)).withOut .unit = t) ∨
       (attachedOp s ≠ some .sremit ∧ s.withOut .held = t)) := by
  unfold execSremit; rw [sequencerGate_next, needTxConfig_next]
  cases h : s.tx.busy <;> simp

/-! ### The step -/

/-- A next state comes from an empty schedule, or from the operation the first word spells. -/
theorem step_next {s t : State} :
    step s = .next t ↔
      (s.sched = [] ∧ s = t) ∨
      ∃ w rest i, s.sched = w :: rest ∧ decode w = .ok i ∧ exec i (s.withSched rest) = .next t := by
  unfold step takeStep fetch runWord
  cases s.sched with
  | nil => simp
  | cons w rest => cases h : decode w <;> simp [h]

end Sys2Proof.Machine
end

