-- ==== Sys2Proof/Laws/Words.lean ====
section
/-! SUPPORT. Operation words as numbers: the fields of a word, the fields of a built word, the fixed bits of a table row,
and what each format's decoder accepts. -/

namespace Sys2Proof

theorem opcodeField_toNat (w : OpWord) : (opcodeField w).toNat = w.toNat / 2 ^ 32 := by
  unfold opcodeField
  rw [BitVec.extractLsb'_toNat, Nat.shiftRight_eq_div_pow]
  have := w.isLt
  omega

theorem fieldA_toNat (w : OpWord) : (fieldA w).toNat = w.toNat / 2 ^ 16 % 2 ^ 16 := by
  unfold fieldA
  rw [BitVec.extractLsb'_toNat, Nat.shiftRight_eq_div_pow]

theorem fieldB_toNat (w : OpWord) : (fieldB w).toNat = w.toNat % 2 ^ 16 := by
  unfold fieldB
  rw [BitVec.extractLsb'_toNat, Nat.shiftRight_eq_div_pow]
  simp

theorem opWord_toNat {o a b : Nat} (ho : o < 256) (ha : a < 65536) (hb : b < 65536) :
    (opWord o a b).toNat = o * 2 ^ 32 + a * 2 ^ 16 + b := by
  unfold opWord
  rw [BitVec.toNat_ofNat, Nat.mod_eq_of_lt]
  omega

/-- A word is built from its three fields. -/
theorem opWord_of_fields (w : OpWord) : w = opWord (opcodeField w).toNat (fieldA w).toNat (fieldB w).toNat := by
  have h1 := (opcodeField w).isLt
  have h2 := (fieldA w).isLt
  have h3 := (fieldB w).isLt
  rw [← BitVec.toNat_inj, opWord_toNat h1 h2 h3, opcodeField_toNat, fieldA_toNat, fieldB_toNat]
  omega

/-- The bits from `k` up, as a number. -/
theorem and_highMask_toNat (w m : OpWord) (k : Nat) (hk : ∀ i < 40, m.getLsbD i = decide (k ≤ i)) :
    (w &&& m).toNat = w.toNat / 2 ^ k * 2 ^ k := by
  have h : w &&& m = (w >>> k) <<< k := by
    apply BitVec.eq_of_getLsbD_eq
    intro i hi
    rw [BitVec.getLsbD_and, hk i hi, BitVec.getLsbD_shiftLeft, BitVec.getLsbD_ushiftRight]
    by_cases h : k ≤ i
    · simp [h, hi, Nat.not_lt.2 h]
    · simp [h, Nat.not_le.1 h]
  rw [h, BitVec.toNat_shiftLeft, BitVec.toNat_ushiftRight, Nat.shiftRight_eq_div_pow, Nat.shiftLeft_eq,
    Nat.mod_eq_of_lt]
  exact lt_of_le_of_lt (Nat.div_mul_le_self _ _) w.isLt

/-- A row whose mask is the bits from `k` up. -/
theorem OpRow.matches_highMask {name : String} {m p w : OpWord} (k : Nat)
    (hk : ∀ i < 40, m.getLsbD i = decide (k ≤ i)) :
    OpRow.matches ⟨name, m, p⟩ w = true ↔ w.toNat / 2 ^ k * 2 ^ k = p.toNat := by
  simp only [OpRow.matches, decide_eq_true_eq]
  rw [← BitVec.toNat_inj, and_highMask_toNat w m k hk]

/-! ### What each format's decoder accepts -/

theorem decodeN_ok {w : OpWord} {i j : Instr} :
    decodeN w i = .ok j ↔ fieldA w = 0#16 ∧ fieldB w = 0#16 ∧ i = j := by
  unfold decodeN
  by_cases h1 : fieldA w = 0#16 <;> by_cases h2 : fieldB w = 0#16 <;> simp [h1, h2]

theorem decodeB_ok {w : OpWord} {f : Byte → Instr} {j : Instr} :
    decodeB w f = .ok j ↔ fieldA w = 0#16 ∧ (fieldB w).toNat < 256 ∧ f ((fieldB w).setWidth 8) = j := by
  unfold decodeB
  have h2 : 256 ≤ (fieldB w).toNat ↔ ¬ (fieldB w).toNat < 256 := by omega
  by_cases h1 : fieldA w = 0#16 <;> by_cases h3 : (fieldB w).toNat < 256 <;> simp [h1, h2, h3]

theorem decodeF_ok {w : OpWord} {f : Bool → Instr} {j : Instr} :
    decodeF w f = .ok j ↔ fieldA w = 0#16 ∧ (fieldB w).toNat < 2 ∧ f ((fieldB w).getLsbD 0) = j := by
  unfold decodeF
  have h2 : 2 ≤ (fieldB w).toNat ↔ ¬ (fieldB w).toNat < 2 := by omega
  by_cases h1 : fieldA w = 0#16 <;> by_cases h3 : (fieldB w).toNat < 2 <;> simp [h1, h2, h3]

end Sys2Proof
end

