-- ==== Sys2Proof/Laws/PerInstr.lean ====
section
/-! SUPPORT. Statements made per operation. `Encoding`: the word of a well-formed operation carries the fixed bits of
its own row of the opcode table (spec 30_encoding R104, R105). -/

namespace Sys2Proof.Laws.Encoding

/-- The word of a well-formed operation belongs to the operation's row. -/
def Statement (i : Instr) : Prop :=
  i.wf = true → ∃ r ∈ opcodeTable, r.mnemonic = i.mnemonic ∧ r.matches (encode i) = true

/-- A format R row and the word of two spellable rates. -/
theorem matches_rates {name : String} {p : OpWord} (o a b : Nat) (ho : o < 256) (hp : p.toNat = o * 2 ^ 32)
    (ha : a < 65536) (hb : b < 65536) : OpRow.matches ⟨name, 0xFF00000000, p⟩ (opWord o a b) = true := by
  rw [OpRow.matches_highMask 32 (by decide), opWord_toNat ho ha hb, hp]
  omega

/-- A format B row and the word of a byte. -/
theorem matches_byte {name : String} {p : OpWord} (o : Nat) (b : Byte) (ho : o < 256) (hp : p.toNat = o * 2 ^ 32) :
    OpRow.matches ⟨name, 0xFFFFFFFF00, p⟩ (opWord o 0 b.toNat) = true := by
  have hb := b.isLt
  rw [OpRow.matches_highMask 8 (by decide), opWord_toNat ho (by omega) (by omega), hp]
  omega

theorem init (txBaud rxBaud : Nat) : Statement (.init txBaud rxBaud) := by
  intro h
  simp only [Instr.wf, spellableRate, Bool.and_eq_true, decide_eq_true_eq] at h
  exact ⟨⟨"INIT", 0xFF00000000, 0x0100000000⟩, by decide, rfl, matches_rates 1 _ _ (by omega) rfl h.1 h.2⟩

theorem setbaud (txBaud rxBaud : Nat) : Statement (.setbaud txBaud rxBaud) := by
  intro h
  simp only [Instr.wf, spellableRate, Bool.and_eq_true, decide_eq_true_eq] at h
  exact ⟨⟨"SETBAUD", 0xFF00000000, 0x0200000000⟩, by decide, rfl, matches_rates 2 _ _ (by omega) rfl h.1 h.2⟩

theorem txbyte (byte : Byte) : Statement (.txbyte byte) := fun _ =>
  ⟨⟨"TXBYTE", 0xFFFFFFFF00, 0x0300000000⟩, by decide, rfl, matches_byte 3 _ (by omega) rfl⟩

theorem rxpoll : Statement .rxpoll := by unfold Statement; decide

theorem txtick : Statement .txtick := by unfold Statement; decide

theorem rxtick : Statement .rxtick := by unfold Statement; decide

theorem edge : Statement .edge := by unfold Statement; decide

theorem line (level : Level) : Statement (.line level) := by unfold Statement; cases level <;> decide

theorem enq (byte : Byte) : Statement (.enq byte) := fun _ =>
  ⟨⟨"ENQ", 0xFFFFFFFF00, 0x2000000000⟩, by decide, rfl, matches_byte 0x20 _ (by omega) rfl⟩

theorem deq : Statement .deq := by unfold Statement; decide

theorem isempty : Statement .isempty := by unfold Statement; decide

theorem begintx (byte : Byte) : Statement (.begintx byte) := fun _ =>
  ⟨⟨"BEGINTX", 0xFFFFFFFF00, 0x2300000000⟩, by decide, rfl, matches_byte 0x23 _ (by omega) rfl⟩

theorem laidle : Statement .laidle := by unfold Statement; decide

theorem laacc : Statement .laacc := by unfold Statement; decide

theorem srstart : Statement .srstart := by unfold Statement; decide

theorem srread : Statement .srread := by unfold Statement; decide

theorem srparse : Statement .srparse := by unfold Statement; decide

theorem srend : Statement .srend := by unfold Statement; decide

theorem sremit : Statement .sremit := by unfold Statement; decide

end Sys2Proof.Laws.Encoding
end

