-- ==== Sys2Proof/Tests/Slice0.lean ====
section
/-! SUPPORT. The model's own tests: the WellFormed smoke test, decoding, one step per operation, the text of a schedule,
and a witness for the hypotheses of every obligation that has some. Expected results come from the spec's vectors
(95_test_vectors, named in each comment) or are worked out by hand from the rule named. -/

open Sys2Proof Sys2Proof.Machine

namespace Sys2Proof.Tests

/-! ### A small parameter set and small states -/

/-- Two rates, a ring of 2, a LineBuffer of 16, a timeout of 3, one-byte prefixes `A`, `B` and the target prefix `$`. -/
def tCfg : Config where
  ringCap := 2
  lineCap := 16
  tIdle := 3
  targetField := 1
  skip := 3
  plen := 1
  pTgt := [0x24#8]
  pSup1 := some [0x41#8]
  pSup2 := some [0x42#8]
  invert := false
  rateTable := [(4800, ⟨1, 1⟩), (9600, ⟨2, 2⟩)]
  sent := 0x00#8
  starEmitted := true
  paceDelay := 0

/-- After reset. -/
def cold : State := State.powerOn tCfg

/-- After `INIT 9600, 9600`. -/
def ready : State := (initialise cold 9600 9600).withOut (.rates true true)

/-- `ready`, with `0x41` in the Transmitter and three bits left. -/
def sending : State := ready.withTx { sr := 0x41#8, bits := 3#4, busy := true, line := false, armed := true }

/-- `ready`, with the Receiver in a byte, `n` samples taken and `sr` assembled. -/
def sampling (n : BitCount) (sr : Byte) : State :=
  ready.withRx { sr := sr, bits := n, busy := true, edgeEn := false, armed := true, delay := .one }

/-- The ring with one byte, and the full ring. -/
def ring1 (b : Byte) : Ring := { cells := [(0, b)], head := 0, tail := 1, count := 1 }
def ring2 (a b : Byte) : Ring := { cells := [(0, a), (1, b)], head := 0, tail := 0, count := 2 }

/-- The state with the bytes from index 0 in the LineBuffer and the sentinel behind them. -/
def withLine (s : State) (bs : List Byte) : State :=
  s.withBuf { cells := (List.range (bs.length + 1)).zip (bs ++ [0x00#8]), wr := BitVec.ofNat 16 bs.length, idle := 0#16 }

/-- `LA_Acc` with one byte taken. -/
def accumulating : State := (withLine ready [0x41#8]).withFg .laAcc

/-- A pass about to classify the line at index 0. -/
def atStart (bs : List Byte) : State := (withLine ready bs).withFg .srStart

/-- The outcome is a next state with the property. -/
def nextWith (o : Outcome) (p : State → Bool) : Bool :=
  match o with
  | .next t => p t
  | .fault _ => false
  | .refused _ => false

/-- The outcome is the refusal. -/
def refusedWith (o : Outcome) (r : Refusal) : Bool :=
  match o with
  | .next _ => false
  | .fault _ => false
  | .refused r' => decide (r' = r)

/-! ### WellFormed: an ill-formed term for each check -/

theorem test_wf_rates : (Instr.init 65536 0).wf = false ∧ (Instr.init 0 65536).wf = false ∧
    (Instr.setbaud 65536 0).wf = false ∧ (Instr.setbaud 0 65536).wf = false ∧
    (Instr.init 65535 0).wf = true := by decide

theorem test_wf_reference_shape : tCfg.wf = true ∧ tCfg.prefixesDiffer = true := by decide

theorem test_wf_sizes : ({ tCfg with ringCap := 0 } : Config).wf = false ∧ ({ tCfg with lineCap := 2 } : Config).wf = false ∧
    ({ tCfg with tIdle := 0 } : Config).wf = false ∧ ({ tCfg with tIdle := 65536 } : Config).wf = false ∧
    ({ tCfg with targetField := 0 } : Config).wf = false ∧ ({ tCfg with plen := 0 } : Config).wf = false ∧
    ({ tCfg with lineCap := 65534 } : Config).wf = false := by decide

theorem test_wf_prefixes : ({ tCfg with pTgt := [0x24#8, 0x47#8] } : Config).wf = false ∧
    ({ tCfg with pTgt := [0x00#8] } : Config).wf = false ∧ ({ tCfg with sent := 0x24#8 } : Config).wf = false ∧
    ({ tCfg with pSup1 := some [] } : Config).wf = false ∧ ({ tCfg with pSup2 := some [0x00#8] } : Config).wf = false ∧
    ({ tCfg with pSup1 := none } : Config).wf = true := by decide

theorem test_wf_rate_table : ({ tCfg with rateTable := [(0, ⟨1, 1⟩)] } : Config).wf = false ∧
    ({ tCfg with rateTable := [(65536, ⟨1, 1⟩)] } : Config).wf = false ∧
    ({ tCfg with rateTable := [(4800, ⟨1, 1⟩), (4800, ⟨2, 2⟩)] } : Config).wf = false := by decide

theorem test_wf_prefixes_differ : ({ tCfg with pSup1 := some [0x24#8] } : Config).prefixesDiffer = false ∧
    ({ tCfg with pSup2 := some [0x24#8] } : Config).prefixesDiffer = false ∧
    ({ tCfg with pSup2 := some [0x41#8] } : Config).prefixesDiffer = false ∧
    ({ tCfg with pSup1 := none, pSup2 := none } : Config).prefixesDiffer = true := by decide

/-! ### Decoding: the words of vectors 2.1, every constructor -/

theorem test_decode_facade : decode 0x0125802580#40 = .ok (.init 9600 9600) ∧
    decode 0x01FFFF0000#40 = .ok (.init 65535 0) ∧ decode 0x0212C09600#40 = .ok (.setbaud 4800 38400) ∧
    decode 0x0300000041#40 = .ok (.txbyte 0x41#8) ∧ decode 0x0400000000#40 = .ok .rxpoll := by decide

theorem test_decode_events : decode 0x1000000000#40 = .ok .txtick ∧ decode 0x1000000001#40 = .ok .rxtick ∧
    decode 0x1100000000#40 = .ok .edge ∧ decode 0x1200000000#40 = .ok (.line false) ∧
    decode 0x1200000001#40 = .ok (.line true) := by decide

theorem test_decode_ring_and_transmitter : decode 0x200000007F#40 = .ok (.enq 0x7F#8) ∧
    decode 0x2100000000#40 = .ok .deq ∧ decode 0x2200000000#40 = .ok .isempty ∧
    decode 0x2300000000#40 = .ok (.begintx 0x00#8) := by decide

theorem test_decode_sequencer : decode 0x3000000000#40 = .ok .laidle ∧ decode 0x3100000000#40 = .ok .laacc ∧
    decode 0x3200000000#40 = .ok .srstart ∧ decode 0x3300000000#40 = .ok .srread ∧
    decode 0x3400000000#40 = .ok .srparse ∧ decode 0x3500000000#40 = .ok .srend ∧
    decode 0x3600000000#40 = .ok .sremit := by decide

theorem test_decode_unassigned : decode 0x0000000000#40 = .error .opcode ∧ decode 0x0500000000#40 = .error .opcode ∧
    decode 0x2400000000#40 = .error .opcode ∧ decode 0x3700000000#40 = .error .opcode ∧
    decode 0xFF00000000#40 = .error .opcode := by decide

theorem test_decode_must_be_zero : decode 0x0400000001#40 = .error .fieldB ∧ decode 0x1100010000#40 = .error .fieldA ∧
    decode 0x3000000001#40 = .error .fieldB ∧ decode 0x0300000141#40 = .error .fieldB ∧
    decode 0x0300010041#40 = .error .fieldA ∧ decode 0x2000000100#40 = .error .fieldB ∧
    decode 0x1000000002#40 = .error .fieldB ∧ decode 0x1200000003#40 = .error .fieldB := by decide

theorem test_encode : encode (.setbaud 4800 38400) = 0x0212C09600#40 ∧ encode (.init 31250 31250) = 0x017A127A12#40 ∧
    encode (.line true) = 0x1200000001#40 ∧ encode (.begintx 0x41#8) = 0x2300000041#40 := by decide

theorem test_decode_bytes : decodeBytes [0x02#8, 0x12#8, 0xC0#8, 0x96#8, 0x00#8, 0x04#8] =
    .ok (.setbaud 4800 38400, [0x04#8]) ∧ decodeBytes [0x04#8, 0x00#8] = .error .truncated := by decide

theorem test_decode_table_word : decodeTableWord 40 0x0300000041 = some (.txbyte 0x41#8) ∧
    decodeTableWord 40 0x0300000141 = none ∧ decodeTableWord 48 0x0400000000 = none := by decide

/-! ### The step -/

/-- An invalid word is refused (R108); a placed word runs. -/
theorem test_step_runs_the_placed_word :
    nextWith (step (cold.withFetchWord 40 0x200000007F)) (fun t => t.out = .bool true ∧ t.ring.count = 1 ∧ t.sched = []) ∧
    refusedWith (step (cold.withFetchWord 40 0x0400000001)) (.invalidWord .fieldB) ∧
    nextWith (step cold) (fun t => t = cold) := by decide

/-! ### One step of each operation -/

/-- F2 and F3: the result pair, and the configuration of the unsupported direction. -/
theorem test_init : nextWith (exec (.init 9600 12345) cold) fun t =>
    t.out = .rates true false ∧ t.cfg.tx = some ⟨2, 2⟩ ∧ t.cfg.rx = none ∧ t.inited ∧ t.rx.edgeEn ∧
      t.tx.line = true ∧ t.ring.count = 0 := by decide

/-- F5. -/
theorem test_init_twice : refusedWith (exec (.init 4800 4800) ready) .secondInit := by decide

/-- F7: during a byte. -/
theorem test_setbaud : nextWith (exec (.setbaud 4800 0) sending) fun t =>
    t.out = .rates true false ∧ t.cfg.tx = some ⟨1, 1⟩ ∧ t.cfg.rx = some ⟨2, 2⟩ ∧ t.tx = sending.tx := by decide

/-- F6: the first byte steps, the second one waits. -/
theorem test_txbyte : nextWith (exec (.txbyte 0x41#8) ready) (fun t => t.tx.line = false ∧ t.txLog = [0x41#8]) ∧
    nextWith (exec (.txbyte 0x42#8) sending) (fun t => t.out = .held ∧ t.tx = sending.tx ∧ t.txLog = []) := by decide

/-- X1, last line: the byte, then no data; F1: refused before INIT. -/
theorem test_rxpoll : nextWith (exec .rxpoll (ready.withRing (ring1 0x41#8)))
      (fun t => t.out = .byte (some 0x41#8) ∧ t.ring.count = 0 ∧ t.ring.head = 1) ∧
    nextWith (exec .rxpoll ready) (fun t => t.out = .byte none) ∧
    refusedWith (exec .rxpoll cold) .beforeInit := by decide

/-- T1, from `k = 5` with `sr = 0x41` in place of `02` (hand: bit 0 is 1). -/
theorem test_txtick : nextWith (exec .txtick sending) fun t =>
    t.tx = { sr := 0x20#8, bits := 2#4, busy := true, line := true, armed := true } := by decide

/-- T1 at `k = 9`, and T9. -/
theorem test_txtick_ends : nextWith (exec .txtick (sending.withTx { sending.tx with bits := 0#4, sr := 0x00#8 }))
      (fun t => t.tx = { sr := 0x00#8, bits := 0#4, busy := false, line := true, armed := false }) ∧
    nextWith (exec .txtick (sending.withTx { sending.tx with busy := false }))
      (fun t => t.tx = { sending.tx with busy := false, armed := false }) := by decide

/-- X1 at `i = 7` and `i = 8`. -/
theorem test_rxtick : nextWith (exec .rxtick ((sampling 6#4 0x04#8).withRxLine true))
      (fun t => t.rx = { sr := 0x82#8, bits := 7#4, busy := true, edgeEn := false, armed := true, delay := .one }) ∧
    nextWith (exec .rxtick ((sampling 7#4 0x82#8).withRxLine false))
      (fun t => t.rx = { sr := 0x41#8, bits := 8#4, busy := false, edgeEn := true, armed := false, delay := .one } ∧
        t.ring = ring1 0x41#8) := by decide

/-- X4: the third byte is lost. -/
theorem test_rxtick_overflow : nextWith
    (exec .rxtick (((sampling 7#4 0x86#8).withRxLine false).withRing (ring2 0x41#8 0x42#8)))
      fun t => t.ring = ring2 0x41#8 0x42#8 ∧ t.rx.busy = false := by decide

/-- X1 and X6. -/
theorem test_edge : nextWith (exec .edge ready)
      (fun t => t.rx = { sr := 0#8, bits := 0#4, busy := true, edgeEn := false, armed := true, delay := .oneHalf }) ∧
    nextWith (exec .edge cold) (fun t => t.out = .held ∧ t.rx = cold.rx) := by decide

/-- X1, X6, and X7 with `INVERT = true`. -/
theorem test_line : nextWith (exec (.line false) ready) (fun t => t.rx.busy ∧ t.rx.delay = .oneHalf ∧ t.rxLine = false) ∧
    nextWith (exec (.line false) cold) (fun t => t.rxLine = false ∧ t.rx = cold.rx) ∧
    nextWith (exec (.line true) (initialise (State.powerOn { tCfg with invert := true }) 4800 4800))
      (fun t => t.rx.busy ∧ t.rxLine = true) := by decide

/-- F3: an edge with `cfg.rx` none is refused. -/
theorem test_line_unconfigured : refusedWith (exec (.line false) (initialise cold 9600 12345)) (.unconfigured .rx) := by
  decide

/-- Q1. -/
theorem test_enq : nextWith (exec (.enq 0x22#8) (cold.withRing (ring1 0x11#8)))
      (fun t => t.out = .bool true ∧ t.ring = ring2 0x11#8 0x22#8) ∧
    nextWith (exec (.enq 0x33#8) (cold.withRing (ring2 0x11#8 0x22#8)))
      (fun t => t.out = .bool false ∧ t.ring = ring2 0x11#8 0x22#8) := by decide

/-- Q1 and Q5. -/
theorem test_deq : nextWith (exec .deq (cold.withRing (ring2 0x11#8 0x22#8)))
      (fun t => t.out = .byte (some 0x11#8) ∧ t.ring = { ring2 0x11#8 0x22#8 with head := 1, count := 1 }) ∧
    nextWith (exec .deq cold) (fun t => t.out = .byte none ∧ t.ring = cold.ring) := by decide

/-- Q5. -/
theorem test_isempty : nextWith (exec .isempty cold) (fun t => t.out = .bool true) ∧
    nextWith (exec .isempty (cold.withRing (ring1 0#8))) (fun t => t.out = .bool false) := by decide

/-- T1 at `k = 0`, and T7. -/
theorem test_begintx : nextWith (exec (.begintx 0x41#8) ready)
      (fun t => t.tx = { sr := 0x41#8, bits := 8#4, busy := true, line := false, armed := true }) ∧
    refusedWith (exec (.begintx 0x03#8) sending) .whileSending := by decide

/-- A1, second line; A4. -/
theorem test_laidle : nextWith (exec .laidle (ready.withRing (ring1 0x41#8)))
      (fun t => t.fg = .laAcc ∧ t.buf = { cells := [(0, 0x41#8), (1, 0x00#8)], wr := 1#16, idle := 0#16 }) ∧
    nextWith (exec .laidle accumulating) (fun t => t.out = .held ∧ t.buf = accumulating.buf) := by decide

/-- A1: a byte, and the poll that reaches `T_IDLE`. -/
theorem test_laacc : nextWith (exec .laacc (accumulating.withRing (ring1 0x42#8)))
      (fun t => t.fg = .laAcc ∧ t.buf.wr = 2#16 ∧ t.buf.cells = [(0, 0x41#8), (1, 0x42#8), (2, 0x00#8)]) ∧
    nextWith (exec .laacc (accumulating.withBuf { accumulating.buf with idle := 2#16 }))
      (fun t => t.fg = .srStart ∧ t.buf.idle = 3#16 ∧ t.scan.pos = 0#16) := by decide

/-- A2: the byte that fills the buffer hands over. -/
theorem test_laacc_full : nextWith
    (exec .laacc { accumulating with par := { tCfg with lineCap := 3 }, ring := ring1 0x5A#8 })
      fun t => t.fg = .srStart ∧ t.buf.wr = 2#16 ∧ t.scan.pos = 0#16 := by decide

/-- R182: the four branches. -/
theorem test_srstart : nextWith (exec .srstart (atStart [])) (fun t => t.fg = .srEnd) ∧
    nextWith (exec .srstart (atStart [0x42#8, 0x0A#8])) (fun t => t.fg = .srRead ∧ t.scan.txmark = false) ∧
    nextWith (exec .srstart (atStart [0x24#8, 0x0A#8])) (fun t => t.fg = .srParse ∧ t.scan.field = 0#16) ∧
    nextWith (exec .srstart (atStart [0x43#8, 0x0A#8])) (fun t => t.fg = .srRead ∧ t.scan.txmark = true) := by decide

/-- W19, and a transmitted byte. -/
theorem test_srread : nextWith (exec .srread ((atStart [0x0A#8]).withFg .srRead))
      (fun t => t.scan.emitq = [] ∧ t.scan.pos = 1#16 ∧ t.fg = .srStart) ∧
    nextWith (exec .srread (((atStart [0x43#8]).withScan { ready.scan with txmark := true }).withFg .srRead))
      (fun t => t.scan.emitq = [0x43#8] ∧ t.scan.pos = 1#16 ∧ t.fg = .srRead) := by decide

/-- W19, and R188: the one-digit field `TARGET_FIELD` (here 1) between two commas. -/
theorem test_srparse : nextWith (exec .srparse (((atStart [0x2C#8]).withScan
        { ready.scan with field := 3#16, ck := 0x5A#8 }).withFg .srParse))
      (fun t => t.scan.field = 4#16 ∧ t.scan.ck = 0x76#8 ∧ t.scan.emitq = [0x2C#8]) ∧
    nextWith (exec .srparse (((atStart [0x2C#8, 0x35#8, 0x2C#8]).withScan
        { ready.scan with field := 1#16, pos := 1#16 }).withFg .srParse))
      (fun t => t.scan.ck = 0x05#8 ∧ t.scan.emitq = [0x30#8, 0x35#8] ∧ t.scan.pos = 2#16) := by decide

/-- W7 (`ck = 55` at the end of the bytes), and the `*` of W1 (`ck = 7B`). -/
theorem test_srparse_finish : nextWith (exec .srparse (((atStart []).withScan { ready.scan with ck := 0x55#8 }).withFg .srParse))
      (fun t => t.scan.emitq = [0x35#8, 0x35#8, 0x0D#8] ∧ t.scan.pos = 3#16 ∧ t.fg = .srStart) ∧
    nextWith (exec .srparse (((atStart [0x2A#8]).withScan { ready.scan with ck := 0x7B#8 }).withFg .srParse))
      (fun t => t.scan.emitq = [0x2A#8, 0x37#8, 0x42#8, 0x0D#8] ∧ t.scan.pos = 4#16 ∧ t.fg = .srStart) := by decide

/-- R186. -/
theorem test_srend : nextWith (exec .srend (ready.withFg .srEnd)) (fun t => t.fg = .laIdle) ∧
    nextWith (exec .srend ready) (fun t => t.out = .held) := by decide

/-- W19 (hold), and R187. -/
theorem test_sremit : nextWith (exec .sremit ((sending.withFg .srStart).withScan
        { ready.scan with emitq := [0x2A#8, 0x37#8, 0x42#8, 0x0D#8] })) (fun t => t.out = .held ∧ t.scan.emitq.length = 4) ∧
    nextWith (exec .sremit ((ready.withFg .srStart).withScan { ready.scan with emitq := [0x2A#8, 0x37#8] }))
      (fun t => t.scan.emitq = [0x37#8] ∧ t.tx.sr = 0x2A#8 ∧ t.txLog = [0x2A#8]) := by decide

/-! ### Frames, trailers, the harness and the text of a schedule -/

/-- T1 and T6: the ten levels, `INVERT` off and on. -/
theorem test_frame_levels :
    frameLevels tCfg 0x41#8 = [false, true, false, false, false, false, false, true, false, true] ∧
    frameLevels { tCfg with invert := true } 0x0D#8 =
      [true, false, true, false, false, true, true, true, true, false] := by decide

/-- R102 by hand, and the 9-bit spelling of R107. -/
theorem test_trailer_and_spelling : trailer 0x6B#8 = [0x36#8, 0x42#8, 0x0D#8] ∧ trailer 0x0A#8 = [0x30#8, 0x41#8, 0x0D#8] ∧
    spellByteResult (some 0x41#8) = 0x141#9 ∧ spellByteResult none = 0#9 := by decide

/-- X8: the schedule of a received frame, and R211, R212: when a channel is due. -/
theorem test_harness : (rxSchedule tCfg 0x41#8 0).map Prod.snd = rxFrame tCfg 0x41#8 ∧
    ((rxSchedule tCfg 0x41#8 0).filter (fun e => e.2 = .rxtick)).map Prod.fst = [3, 5, 7, 9, 11, 13, 15, 17] ∧
    (txSchedule 0).map Prod.fst = [2, 4, 6, 8, 10, 12, 14, 16, 18] ∧
    txDue sending = some 2 ∧ txDue ready = none ∧ rxDue (sampling 3#4 0#8) = some 2 := by decide

/-- R110: operations, comments, characters, levels. -/
theorem test_parse_operations :
    parseLine tCfg "INIT 9600, 9600 ; start".toList = some (some (.op (.init 9600 9600))) ∧
    parseLine tCfg "  TXBYTE ';' ; c".toList = some (some (.op (.txbyte 0x3B#8))) ∧
    parseLine tCfg "TICK RX".toList = some (some (.op .rxtick)) ∧
    parseLine tCfg "LINE SPACE".toList = some (some (.op (.line false))) ∧
    parseLine tCfg "; only".toList = some none ∧ parseLine tCfg "RXPOLL 1".toList = none := by decide

/-- R110: two hex digits, decimal rates below 65536. -/
theorem test_parse_digits : (parseLine tCfg "TXBYTE 0xaF".toList = some (some (.op (.txbyte 0xAF#8)))) ∧
    parseLine tCfg "TXBYTE 0x4G".toList = none ∧ parseLine tCfg "SETBAUD 4800, 96A0".toList = none ∧
    parseLine tCfg "SETBAUD 4800, 65536".toList = none := by decide

/-- R111 and R105. -/
theorem test_parse_pseudo : parseLine tCfg "RXFRAME 0x7F".toList = some (some (.rxFrame 0x7F#8)) ∧
    (Entry.send 0x41#8).expand cold = .txbyte 0x41#8 :: List.replicate 9 .txtick ∧
    Entry.fgStep.expand ready = [.laidle] ∧ Entry.fgStep.expand ((sending.withFg .srStart).withScan
      { ready.scan with emitq := [0x2A#8] }) = [] ∧
    wordOfHex "0212C09600".toList = some (encode (.setbaud 4800 38400)) := by decide

/-- The silent conditions of X4, F3 and A2's kind, at the states above. -/
theorem test_conditions : conditionOf (.enq 0x33#8) (ready.withRing (ring2 0x11#8 0x22#8)) = some .receiveOverflow ∧
    conditionOf (.init 9600 12345) cold = some .unsupportedRate ∧ conditionOf (.init 9600 4800) cold = none ∧
    conditionOf .srparse ((atStart []).withFg .srParse) = some .unterminatedSentence := by decide

/-! ### Witnesses: for each obligation with hypotheses, concrete values that meet all of them -/

/-- A sentence `$,5,*` that fills a LineBuffer of six cells. -/
def sentence : State := { atStart [0x24#8, 0x2C#8, 0x35#8, 0x2C#8, 0x2A#8] with par := { tCfg with lineCap := 6 } }

/-- A pass with a byte to emit, `cfg.tx` and `cfg.rx` as given. -/
def emitting (s : State) : State :=
  ((withLine s [0x43#8]).withFg .srRead).withScan { s.scan with emitq := [0x43#8], pos := 1#16 }

/-- Both channels at work. -/
def bothDue : State := (sampling 7#4 0x82#8).withTx sending.tx

/-- The invariant as one decidable conjunction, for concrete states. -/
theorem inv_of {s : State}
    (h : s.par.sizesOk = true ∧
      (Memory.wf s.buf.cells = true ∧ Memory.within s.par.lineCap s.buf.cells = true ∧
        Memory.wf s.ring.cells = true ∧ Memory.within s.par.ringCap s.ring.cells = true) ∧
      (s.ring.count ≤ s.par.ringCap ∧ s.ring.head < s.par.ringCap ∧
        s.ring.tail = (s.ring.head + s.ring.count) % s.par.ringCap) ∧
      (s.tx.bits.toNat ≤ 8 ∧ s.tx.armed = s.tx.busy ∧
        (s.tx.busy = true → s.inited = true ∧ s.cfg.tx.isSome = true)) ∧
      (s.rx.bits.toNat ≤ 8 ∧ (s.rx.busy = true → s.rx.bits.toNat < 8) ∧ s.rx.armed = s.rx.busy ∧
        s.rx.edgeEn = (s.inited && !s.rx.busy) ∧ (s.rx.busy = true → s.inited = true ∧ s.cfg.rx.isSome = true)) ∧
      ((s.fg = .laAcc → s.buf.wr.toNat + 2 ≤ s.par.lineCap ∧ s.buf.idle.toNat < s.par.tIdle) ∧
        (s.fg ≠ .laIdle → 1 ≤ s.buf.wr.toNat ∧ s.buf.wr.toNat + 1 ≤ s.par.lineCap) ∧
        (s.fg ≠ .laIdle → Memory.lookup s.buf.cells s.buf.wr.toNat = some s.par.sent) ∧
        (s.fg ≠ .laIdle → ∀ k, k < s.buf.wr.toNat → (Memory.lookup s.buf.cells k).isSome = true)) ∧
      (s.scan.pos.toNat + 1 ≤ s.par.lineCap + s.par.skip ∧
        (s.fg = .srRead ∨ s.fg = .srParse → s.scan.pos.toNat + 1 ≤ s.par.lineCap) ∧
        (s.fg = .srParse → s.scan.field.toNat ≤ s.scan.pos.toNat) ∧ s.scan.emitq.length ≤ 4 ∧
        (s.fg.inRewriter = false → s.scan.emitq = []) ∧ (s.inited = false → s.fg = .laIdle))) : Inv s := by
  obtain ⟨sizes, m, r, t, v, l, n⟩ := h
  exact ⟨sizes, ⟨m.1, m.2.1, m.2.2.1, m.2.2.2⟩, ⟨r.1, r.2.1, r.2.2⟩, ⟨t.1, t.2.1, t.2.2⟩,
    ⟨v.1, v.2.1, v.2.2.1, v.2.2.2.1, v.2.2.2.2⟩, ⟨l.1, l.2.1, l.2.2.1, l.2.2.2⟩,
    ⟨n.1, n.2.1, n.2.2.1, n.2.2.2.1, n.2.2.2.2.1, n.2.2.2.2.2⟩⟩

theorem inv_cold : Inv cold := inv_of (by decide)

theorem inv_ready : Inv ready := inv_of (by decide)

theorem inv_ring1 : Inv (ready.withRing (ring1 0x41#8)) := inv_of (by decide)

theorem inv_full : Inv (bothDue.withRing (ring2 0x41#8 0x42#8)) := inv_of (by decide)

theorem inv_accumulating : Inv (accumulating.withRing (ring1 0x42#8)) ∧ Inv accumulating :=
  ⟨inv_of (by decide), inv_of (by decide)⟩

/-- One byte short of the capacity boundary. -/
def nearlyFull : State := { accumulating.withRing (ring1 0x5A#8) with par := { tCfg with lineCap := 3 } }

theorem inv_nearlyFull : Inv nearlyFull := inv_of (by decide)

theorem inv_sentence : Inv sentence := inv_of (by decide)

/-- Lines with and without a line feed, of each disposition. -/
theorem inv_lines : Inv (atStart [0x42#8, 0x0A#8]) ∧ Inv (atStart [0x43#8, 0x0A#8]) ∧ Inv (atStart [0x42#8]) ∧
    Inv (atStart [0x43#8]) := ⟨inv_of (by decide), inv_of (by decide), inv_of (by decide), inv_of (by decide)⟩

/-- A default line cut by the capacity boundary. -/
def cutLine : State := { atStart [0x43#8, 0x44#8] with par := { tCfg with lineCap := 3 } }

theorem inv_cutLine : Inv cutLine := inv_of (by decide)

theorem ready_atStart (bs : List Byte) : PassReady (atStart bs) := ⟨rfl, rfl, rfl, rfl⟩

theorem inv_emitting_unconfigured : Inv (emitting (initialise cold 12345 9600)) := inv_of (by decide)

theorem inv_rx_unconfigured : Inv (initialise cold 9600 12345) := inv_of (by decide)

/-- A rewrite at the sentinel behind `$`. -/
def unterminated : State := ((atStart [0x24#8]).withFg .srParse).withScan { ready.scan with pos := 1#16 }

theorem inv_unterminated : Inv unterminated := inv_of (by decide)

/-! #### Encoding and the step -/

theorem witness_DecodeOfEncode : (Instr.init 65535 0).wf = true := by decide

theorem witness_EncodeOfDecode : decode 0x01FFFF0000#40 = .ok (.init 65535 0) := by decide

theorem witness_ValidWordsAreTheTableRows : decode 0x1200000001#40 = .ok (.line true) ∧
    ∃ r ∈ opcodeTable, r.matches 0x1200000001#40 = true ∧ r.mnemonic = "LINE" := by decide

theorem witness_InvalidWordsAreRefused : (cold.withSched [0x0400000001#40]).sched = 0x0400000001#40 :: [] ∧
    decode 0x0400000001#40 = .error .fieldB ∧ (65535 < 65536 ∧ 0 < 65536) ∧ 12345 ∉ tCfg.rateTable.map Prod.fst := by
  decide

theorem witness_StepRunsTheScheduledOperation : (cold.withSched [0x0300000041#40]).sched = 0x0300000041#40 :: [] ∧
    decode 0x0300000041#40 = .ok (.txbyte 0x41#8) ∧ cold.sched = [] := by decide

/-! #### Facade -/

theorem witness_ResolveKeepsOrReplaces : tCfg.ratesOk = true ∧ (9600, RateEntry.mk 2 2) ∈ tCfg.rateTable ∧
    (4800, RateEntry.mk 1 1) ∈ tCfg.rateTable ∧ 0 ∉ tCfg.rateTable.map Prod.fst := by decide

theorem witness_InitEstablishesTheTransceiver : cold.inited = false ∧ ready.inited = true := by decide

theorem witness_SetbaudWritesTheRatesOnly : ready.inited = true := by decide

theorem witness_TxbyteBeginsOrWaits : (ready.inited = true ∧ ready.cfg.tx.isSome = true ∧ ready.tx.busy = false) ∧
    (sending.inited = true ∧ sending.cfg.tx.isSome = true ∧ sending.tx.busy = true) := by decide

theorem witness_RefusalTable_before_init : Inv cold ∧ cold.inited = false := ⟨inv_cold, by decide⟩

theorem witness_RefusalTable_tx : Inv (emitting (initialise cold 12345 9600)) ∧
    (emitting (initialise cold 12345 9600)).inited = true ∧ (emitting (initialise cold 12345 9600)).cfg.tx = none ∧
    (emitting (initialise cold 12345 9600)).fg.inRewriter = true ∧
    (emitting (initialise cold 12345 9600)).scan.emitq ≠ [] := ⟨inv_emitting_unconfigured, by decide⟩

theorem witness_RefusalTable_rx : Inv (initialise cold 9600 12345) ∧ (initialise cold 9600 12345).inited = true ∧
    (initialise cold 9600 12345).cfg.rx = none ∧ (initialise cold 9600 12345).rx.edgeEn = true ∧
    (initialise cold 9600 12345).rxLine = markLevel (initialise cold 9600 12345).par := ⟨inv_rx_unconfigured, by decide⟩

theorem witness_LaunchAfterInit : 4800 ∈ tCfg.rateTable.map Prod.fst ∧ 9600 ∈ tCfg.rateTable.map Prod.fst := by decide

/-! #### Transmitter -/

theorem witness_BegintxLoadsTheFrame : (ready.inited = true ∧ ready.cfg.tx.isSome = true ∧ ready.tx.busy = false) ∧
    (sending.inited = true ∧ sending.cfg.tx.isSome = true ∧ sending.tx.busy = true) := by decide

theorem witness_TxtickSendsOneBit : (sending.tx.armed = true ∧ sending.tx.busy = true ∧ 0 < sending.tx.bits.toNat) ∧
    (∃ s : State, s.tx.armed = true ∧ s.tx.busy = true ∧ s.tx.bits.toNat = 0) ∧
    (∃ s : State, s.tx.armed = true ∧ s.tx.busy = false) ∧ ready.tx.armed = false :=
  ⟨by decide, ⟨sending.withTx { sending.tx with bits := 0#4 }, by decide⟩,
    ⟨sending.withTx { sending.tx with busy := false }, by decide⟩, by decide⟩

theorem witness_FrameLaw : (tCfg.invert = false ∧ ({ tCfg with invert := true } : Config).invert = true) ∧
    ready.inited = true ∧ ready.cfg.tx.isSome = true ∧ ready.tx.busy = false ∧
    (0 ≤ 9 ∧ 9 ≤ 9) := by decide

/-! #### Receiver -/

theorem witness_EdgeStartsSampling : (ready.inited = true ∧ ready.rx.edgeEn = true ∧ ready.cfg.rx.isSome = true) ∧
    (cold.inited = false ∨ cold.rx.edgeEn = false) := by decide

theorem witness_RxtickSamplesOneBit : ready.rx.armed = false ∧
    (∃ s : State, s.rx.armed = true ∧ s.rx.busy = false) ∧
    ((sampling 6#4 0#8).rx.armed = true ∧ (sampling 6#4 0#8).rx.busy = true ∧ (sampling 6#4 0#8).rx.bits.toNat < 7) ∧
    ((sampling 7#4 0#8).rx.armed = true ∧ (sampling 7#4 0#8).rx.busy = true ∧ (sampling 7#4 0#8).rx.bits.toNat = 7 ∧
      (sampling 7#4 0#8).ring.count ≠ (sampling 7#4 0#8).par.ringCap ∧
      (sampling 7#4 0#8).ring.tail < (sampling 7#4 0#8).par.ringCap) ∧
    (ring2 0#8 0#8).count = ((sampling 7#4 0#8).withRing (ring2 0#8 0#8)).par.ringCap :=
  ⟨by decide, ⟨ready.withRx { ready.rx with armed := true }, by decide⟩, by decide, by decide, by decide⟩

theorem witness_LineChangesTheLevel :
    ¬ (ready.inited = true ∧ ready.rx.edgeEn = true ∧ ready.rxLine = markLevel ready.par ∧ true = spaceLevel ready.par) ∧
    (ready.inited = true ∧ ready.rx.edgeEn = true ∧ ready.rxLine = markLevel ready.par ∧ false = spaceLevel ready.par ∧
      ready.cfg.rx.isSome = true) := by decide

theorem witness_ReceiveLaw : ready.inited = true ∧ ready.rx.edgeEn = true ∧ ready.cfg.rx.isSome = true ∧
    ready.ring.count < ready.par.ringCap ∧ ready.ring.tail < ready.par.ringCap ∧
    [true, false, false, false, false, false, true, false].length ≤ 8 := by decide

theorem witness_RxFrameRoundTrip : Inv ready ∧ ready.inited = true ∧ ready.rx.edgeEn = true ∧
    ready.cfg.rx.isSome = true ∧ ready.rxLine = markLevel ready.par ∧ ready.ring.count < ready.par.ringCap :=
  ⟨inv_ready, by decide⟩

/-! #### RingBuffer -/

theorem witness_EnqStoresOrDrops : (bothDue.withRing (ring2 0#8 0#8)).ring.count = tCfg.ringCap ∧
    (cold.withRing (ring1 0x11#8)).ring.count ≠ tCfg.ringCap ∧ (cold.withRing (ring1 0x11#8)).ring.tail < tCfg.ringCap := by
  decide

theorem witness_DeqAndRxpollTakeTheOldest : (ready.inited = true ∧ ready.ring.count = 0) ∧
    ((ready.withRing (ring1 0x41#8)).inited = true ∧ (ready.withRing (ring1 0x41#8)).ring.count ≠ 0 ∧ (ready.withRing (ring1 0x41#8)).ring.head < tCfg.ringCap) := by decide

theorem witness_IsemptyAnswers : Agent.foreground ∉ (Instr.enq 0x22#8).agents ∧ Agent.host ∉ (Instr.enq 0x22#8).agents ∧
    (ready.withRing (ring1 0x41#8)).ring.count ≠ 0 ∧
    ∃ t, exec (.enq 0x22#8) (ready.withRing (ring1 0x41#8)) = .next t :=
  ⟨by decide, by decide, by decide, _, rfl⟩

theorem witness_RingIsAQueue : (RingOk cold ∧ ringWindow cold = []) ∧
    (RingOk (cold.withRing (ring1 0x11#8)) ∧ 1 < tCfg.ringCap ∧
      ringWindow (cold.withRing (ring1 0x11#8)) = 0x11#8 :: []) ∧
    (RingOk (cold.withRing (ring2 0x11#8 0x22#8)) ∧ (ring2 0x11#8 0x22#8).count = tCfg.ringCap) :=
  ⟨⟨⟨by decide, by decide, by decide⟩, by decide⟩, ⟨⟨by decide, by decide, by decide⟩, by decide, by decide⟩,
    ⟨⟨by decide, by decide, by decide⟩, by decide⟩⟩

theorem witness_FirstBytesSurviveOverflow : RingOk cold ∧ cold.ring.count = 0 ∧
    ([0x01#8, 0x02#8, 0x03#8][1]? = some 0x02#8 ∧ 1 < cold.par.ringCap) ∧
    ([0x01#8, 0x02#8, 0x03#8][2]? = some 0x03#8 ∧ cold.par.ringCap ≤ 2) ∧
    ∀ i ∈ [Instr.enq 0x01#8, .deq], i = .deq ∨ ∃ b, i = .enq b :=
  ⟨⟨by decide, by decide, by decide⟩, by decide, by decide, by decide, by simp⟩

/-! #### LineAssembler -/

theorem witness_LaidleStartsACycle : (ready.inited = true ∧ ready.fg = .laIdle ∧ ready.scan.emitq = [] ∧
      ready.ring.count = 0) ∧
    ((ready.withRing (ring1 0x41#8)).inited = true ∧ (ready.withRing (ring1 0x41#8)).fg = .laIdle ∧
      (ready.withRing (ring1 0x41#8)).scan.emitq = [] ∧ (ready.withRing (ring1 0x41#8)).ring.count ≠ 0 ∧
      (ready.withRing (ring1 0x41#8)).ring.head < tCfg.ringCap ∧ 3 ≤ tCfg.lineCap) := by decide

theorem witness_LaaccPollsOnce : (accumulating.inited = true ∧ accumulating.fg = .laAcc ∧ accumulating.scan.emitq = [] ∧
      3 ≤ accumulating.par.lineCap ∧ accumulating.ring.count = 0 ∧
      accumulating.buf.wr.toNat < accumulating.par.lineCap - 1 ∧ accumulating.buf.idle.toNat < 65535) ∧
    (nearlyFull.inited = true ∧ nearlyFull.fg = .laAcc ∧ nearlyFull.scan.emitq = [] ∧ 3 ≤ nearlyFull.par.lineCap ∧
      nearlyFull.ring.count ≠ 0 ∧ nearlyFull.ring.head < nearlyFull.par.ringCap ∧
      nearlyFull.buf.wr.toNat + 1 ≤ nearlyFull.par.lineCap - 1 ∧ nearlyFull.par.lineCap ≤ 65536 ∧
      1 ≤ nearlyFull.par.tIdle) := by decide

theorem witness_LineHoldsTheDequeuedBytes :
    (Inv (ready.withRing (ring1 0x41#8)) ∧ (ready.withRing (ring1 0x41#8)).fg = .laIdle ∧
      ∃ t, exec .laidle (ready.withRing (ring1 0x41#8)) = .next t ∧ t.fg = .laAcc) ∧
    (Inv (accumulating.withRing (ring1 0x42#8)) ∧ (accumulating.withRing (ring1 0x42#8)).fg = .laAcc ∧
      ringWindow (accumulating.withRing (ring1 0x42#8)) = 0x42#8 :: [] ∧
      ∃ t, exec .laacc (accumulating.withRing (ring1 0x42#8)) = .next t) ∧
    (Inv accumulating ∧ ringWindow accumulating = [] ∧ ∃ t, exec .laacc accumulating = .next t) :=
  ⟨⟨inv_ring1, by decide, _, rfl, by decide⟩, ⟨inv_accumulating.1, by decide, by decide, _, rfl⟩,
    ⟨inv_accumulating.2, by decide, _, rfl⟩⟩

theorem witness_IdleTimeoutLaw : Inv accumulating ∧ accumulating.inited = true ∧ accumulating.fg = .laAcc ∧
    accumulating.buf.idle = 0#16 ∧ accumulating.ring.count = 0 ∧ (0 ≤ accumulating.par.tIdle ∧ 3 = accumulating.par.tIdle) :=
  ⟨inv_accumulating.2, by decide⟩

/-! #### SentenceRewriter -/

theorem witness_ScanTestsAsWorded : 1 ≤ cold.par.lineCap ∧
    (({ tCfg with pSup1 := none, pSup2 := none } : Config).pSup1 = none ∧
      ({ tCfg with pSup1 := none, pSup2 := none } : Config).pSup2 = none) := by decide

theorem witness_SrstartClassifies :
    (∀ bs ∈ [[], [0x42#8, 0x0A#8], [0x24#8, 0x0A#8], [0x43#8, 0x0A#8]],
      (atStart bs).inited = true ∧ (atStart bs).fg = .srStart ∧ (atStart bs).scan.emitq = []) ∧
    atEnd (atStart []) 0 = true ∧
    (atEnd (atStart [0x42#8, 0x0A#8]) 0 = false ∧ suppressedAt (atStart [0x42#8, 0x0A#8]) 0 = true) ∧
    (atEnd (atStart [0x24#8, 0x0A#8]) 0 = false ∧ suppressedAt (atStart [0x24#8, 0x0A#8]) 0 = false ∧
      matchAt (atStart [0x24#8, 0x0A#8]) 0 tCfg.pTgt = true) ∧
    (atEnd (atStart [0x43#8, 0x0A#8]) 0 = false ∧ suppressedAt (atStart [0x43#8, 0x0A#8]) 0 = false ∧
      matchAt (atStart [0x43#8, 0x0A#8]) 0 tCfg.pTgt = false) := by decide

theorem witness_SrreadOneByte : (∀ bs ∈ [[], [0x43#8]], ((atStart bs).withFg .srRead).inited = true ∧
      ((atStart bs).withFg .srRead).fg = .srRead ∧ ((atStart bs).withFg .srRead).scan.emitq = []) ∧
    atEnd ((atStart []).withFg .srRead) 0 = true ∧ atEnd ((atStart [0x43#8]).withFg .srRead) 0 = false ∧
    lbRead ((atStart [0x43#8]).withFg .srRead) 0 = 0x43#8 ∧
    (nextWith (exec .srread ready) (fun t => t.out = .held) ∧ ready.inited = true ∧ ready.fg ≠ .srRead) := by decide

/-- A rewrite at the digit of `,5,`, and one at the comma before it. -/
def padding : State :=
  ((atStart [0x2C#8, 0x35#8, 0x2C#8]).withFg .srParse).withScan { ready.scan with pos := 1#16, field := 1#16 }
def comma : State := (atStart [0x2C#8, 0x35#8, 0x2C#8]).withFg .srParse

theorem witness_SrparseScansOneByte : (padding.inited = true ∧ padding.fg = .srParse ∧ padding.scan.emitq = [] ∧
      atEnd padding 1 = false ∧ lbRead padding 1 = 0x35#8 ∧ padAt padding 1#16 1 = true) ∧
    (comma.inited = true ∧ comma.fg = .srParse ∧ comma.scan.emitq = [] ∧ atEnd comma 0 = false ∧
      lbRead comma 0 = 0x2C#8 ∧ padAt comma 1#16 0 = false) := by decide

theorem witness_SrparseFinishes : (unterminated.inited = true ∧ unterminated.fg = .srParse ∧
      unterminated.scan.emitq = [] ∧ atEnd unterminated 1 = true) ∧
    (((atStart [0x2A#8]).withFg .srParse).inited = true ∧ ((atStart [0x2A#8]).withFg .srParse).fg = .srParse ∧ ((atStart [0x2A#8]).withFg .srParse).scan.emitq = [] ∧
      atEnd ((atStart [0x2A#8]).withFg .srParse) 0 = false ∧ lbRead ((atStart [0x2A#8]).withFg .srParse) 0 = 0x2A#8) := by
  decide

theorem witness_SrendReturnsToIdle : (ready.withFg .srEnd).inited = true ∧ (ready.withFg .srEnd).scan.emitq = [] ∧
    (ready.inited = true ∧ ready.fg ≠ .srEnd ∧ nextWith (exec .srend ready) (fun t => t.out = .held)) := by decide

theorem witness_SremitHandsOver : ((emitting ready).inited = true ∧ (emitting ready).fg.inRewriter = true ∧
      (emitting ready).scan.emitq = 0x43#8 :: [] ∧ (emitting ready).cfg.tx.isSome = true ∧
      (emitting ready).tx.busy = false) ∧
    ((emitting sending).inited = true ∧ (emitting sending).fg.inRewriter = true ∧
      (emitting sending).scan.emitq = 0x43#8 :: [] ∧ (emitting sending).cfg.tx.isSome = true ∧
      (emitting sending).tx.busy = true) := by decide

theorem witness_ChecksumFoldsTheEmittedBytes :
    ((atStart [0x24#8]).scan.emitq = [] ∧ ∃ t, exec .srstart (atStart [0x24#8]) = .next t ∧ t.fg = .srParse) ∧
    (padding.scan.emitq = [] ∧ padding.fg = .srParse ∧ ∃ t, exec .srparse padding = .next t ∧ t.fg = .srParse) :=
  ⟨⟨by decide, _, rfl, by decide⟩, by decide, by decide, _, rfl, by decide⟩

/-- A line that ends in a line feed: `B\n` suppressed, `C\n` passed through. -/
theorem witness_LineSuppressedOrPassedThrough :
    (Inv (atStart [0x42#8, 0x0A#8]) ∧ Inv (atStart [0x43#8, 0x0A#8])) ∧ (∀ bs, PassReady (atStart bs)) ∧
    (∀ c ∈ [0x42#8, 0x43#8], (atStart [c, 0x0A#8]).fg = .srStart ∧ (atStart [c, 0x0A#8]).scan.emitq = [] ∧
      (∀ b ∈ [c], b ≠ 0x0A#8 ∧ b ≠ (atStart [c, 0x0A#8]).par.sent) ∧ (atStart [c, 0x0A#8]).scan.pos.toNat = 0 ∧
      lbSlice (atStart [c, 0x0A#8]) 0 2 = [c] ++ [0x0A#8] ∧ (atStart [c, 0x0A#8]).par.sent ≠ 0x0A#8 ∧
      0 + [c].length + 2 ≤ (atStart [c, 0x0A#8]).par.lineCap) ∧
    suppressedAt (atStart [0x42#8, 0x0A#8]) 0 = true ∧ suppressedAt (atStart [0x43#8, 0x0A#8]) 0 = false ∧
    matchAt (atStart [0x43#8, 0x0A#8]) 0 tCfg.pTgt = false :=
  ⟨⟨inv_lines.1, inv_lines.2.1⟩, ready_atStart, by decide, by decide, by decide, by decide⟩

/-- A line that ends at the sentinel with no line feed: `B` suppressed, `C` passed through. -/
theorem witness_LineSuppressedOrPassedThrough_sentinel :
    (Inv (atStart [0x42#8]) ∧ Inv (atStart [0x43#8])) ∧ (∀ bs, PassReady (atStart bs)) ∧
    (∀ c ∈ [0x42#8, 0x43#8], (atStart [c]).fg = .srStart ∧ (atStart [c]).scan.emitq = [] ∧
      (∀ b ∈ [c], b ≠ 0x0A#8 ∧ b ≠ (atStart [c]).par.sent) ∧ (atStart [c]).scan.pos.toNat = 0 ∧
      lbSlice (atStart [c]) 0 1 = [c] ++ [] ∧ [c] ≠ [] ∧ 0 + [c].length + 1 ≤ (atStart [c]).par.lineCap ∧
      atEnd (atStart [c]) 1 = true) ∧
    suppressedAt (atStart [0x42#8]) 0 = true ∧ suppressedAt (atStart [0x43#8]) 0 = false ∧
    matchAt (atStart [0x43#8]) 0 tCfg.pTgt = false :=
  ⟨⟨inv_lines.2.2.1, inv_lines.2.2.2⟩, ready_atStart, by decide, by decide, by decide, by decide⟩

/-- A line that ends at the capacity boundary, where `N` admits no byte more. -/
theorem witness_LineSuppressedOrPassedThrough_cut : Inv cutLine ∧ PassReady cutLine ∧ cutLine.fg = .srStart ∧
    cutLine.scan.emitq = [] ∧ (∀ b ∈ [0x43#8, 0x44#8], b ≠ 0x0A#8 ∧ b ≠ cutLine.par.sent) ∧
    lbSlice cutLine 0 2 = [0x43#8, 0x44#8] ++ [] ∧ cutLine.scan.pos.toNat + 2 + 1 = cutLine.par.lineCap ∧
    atEnd cutLine (cutLine.scan.pos.toNat + 2) = true ∧ suppressedAt cutLine 0 = false ∧
    matchAt cutLine 0 cutLine.par.pTgt = false :=
  ⟨inv_cutLine, ⟨by decide, by decide, by decide, by decide⟩, by decide⟩

theorem witness_SentenceIsRewritten : Inv sentence ∧ PassReady sentence ∧ sentence.fg = .srStart ∧
    sentence.scan.emitq = [] ∧ sentence.scan.pos.toNat + [0x24#8, 0x2C#8, 0x35#8, 0x2C#8].length + 2 ≤ sentence.par.lineCap ∧
    lbSlice sentence 0 5 = [0x24#8, 0x2C#8, 0x35#8, 0x2C#8] ++ [0x2A#8] ∧
    (∀ b ∈ [0x24#8, 0x2C#8, 0x35#8, 0x2C#8], b ≠ 0x2A#8 ∧ b ≠ sentence.par.sent) ∧ sentence.par.sent ≠ 0x2A#8 ∧
    suppressedAt sentence 0 = false ∧ matchAt sentence 0 sentence.par.pTgt = true ∧
    [0x24#8, 0x2C#8, 0x30#8, 0x35#8, 0x2C#8] = rewrittenBody sentence 0 0#16 [0x24#8, 0x2C#8, 0x35#8, 0x2C#8] :=
  ⟨inv_sentence, ⟨by decide, by decide, by decide, by decide⟩, by decide⟩

theorem witness_PassTerminates : Inv sentence ∧ PassReady sentence ∧ sentence.fg.inRewriter = true :=
  ⟨inv_sentence, ⟨by decide, by decide, by decide, by decide⟩, by decide⟩

/-! #### The sequencer, the contexts, the invariants -/

theorem witness_OneSequencerOperationIsEnabled :
    ((emitting sending).scan.emitq ≠ [] ∧ (emitting sending).fg.inRewriter = true ∧ (emitting sending).tx.busy = true) ∧
    (emitting ready).tx.busy = false ∧
    (∀ f ∈ [FgState.laIdle, .laAcc, .srStart, .srRead, .srParse, .srEnd],
      (ready.withFg f).scan.emitq = [] ∧ (ready.withFg f).fg = f) ∧
    (ready.inited = true ∧ attachedOp ready ≠ some .sremit) := by decide

theorem witness_SequencerTransitions : ∃ t, exec .srstart sentence = .next t ∧ t.fg ≠ sentence.fg :=
  ⟨_, rfl, by decide⟩

theorem witness_LineBufferFrozenDuringAPass : sentence.fg.inRewriter = true ∧ ∃ t, exec .srstart sentence = .next t :=
  ⟨by decide, _, rfl⟩

theorem witness_ContextsKeepTheirOwnership :
    (Agent.foreground ∉ Instr.rxtick.agents ∧ ∃ t, exec .rxtick bothDue = .next t) ∧
    (Agent.foreground ∈ Instr.deq.agents ∧ (∀ a b, Instr.deq ≠ .init a b) ∧ ∃ t, exec .deq ready = .next t) :=
  ⟨⟨by decide, _, rfl⟩, by decide, by simp, _, rfl⟩

theorem witness_HandlersCommute :
    (bothDue.tx.armed = true ∧ ∃ t u, exec .txtick bothDue = .next t ∧ exec .rxtick t = .next u ∧ u.out ≠ .held) ∧
    (sending.tx.armed = true ∧ ∃ t u, exec .txtick sending = .next t ∧ exec .edge t = .next u ∧ u.out ≠ .held) :=
  ⟨⟨by decide, _, _, rfl, rfl, by decide⟩, by decide, _, _, rfl, rfl, by decide⟩

theorem witness_WhoWritesWhat :
    (∃ t, exec (.begintx 0x41#8) ready = .next t ∧ t.txLog ≠ ready.txLog) ∧
    (∃ t, exec (.setbaud 4800 4800) ready = .next t ∧ t.cfg ≠ ready.cfg ∧ ready.inited = true) :=
  ⟨⟨_, rfl, by decide⟩, _, rfl, by decide, by decide⟩

theorem witness_ConditionsAreSilent :
    (Inv (bothDue.withRing (ring2 0x41#8 0x42#8)) ∧
      conditionOf .rxtick (bothDue.withRing (ring2 0x41#8 0x42#8)) = some .receiveOverflow) ∧
    (Inv nearlyFull ∧ conditionOf .laacc nearlyFull = some .lineBufferOverflow) ∧
    (Inv unterminated ∧ conditionOf .srparse unterminated = some .unterminatedSentence) ∧
    (Inv cold ∧ conditionOf (.init 9600 12345) cold = some .unsupportedRate ∧
      12345 ∉ cold.par.rateTable.map Prod.fst) ∧
    (Inv ready ∧ conditionOf (.setbaud 0 65535) ready = some .unsupportedRate ∧
      0 ∉ ready.par.rateTable.map Prod.fst ∧ 65535 ∉ ready.par.rateTable.map Prod.fst) :=
  ⟨⟨inv_full, by decide⟩, ⟨inv_nearlyFull, by decide⟩, ⟨inv_unterminated, by decide⟩, ⟨inv_cold, by decide, by decide⟩,
    inv_ready, by decide, by decide, by decide⟩

theorem witness_StepKeepsTheInvariant : Inv nearlyFull ∧ ∃ t, step nearlyFull = .next t := ⟨inv_nearlyFull, _, rfl⟩

theorem witness_ResetMeetsTheInvariant : tCfg.sizesOk = true ∧
    ({ tCfg with ringCap := 1, lineCap := 65536, skip := 0, tIdle := 65535 } : Config).sizesOk = true := by decide

theorem witness_TransmitTimerFollowsBusy : (∃ t, exec (.init 9600 9600) cold = .next t) ∧
    (sending.inited = true ∧ sending.tx.armed = sending.tx.busy ∧
      ∃ t, step (sending.withFetchWord 40 0x1000000000) = .next t) := ⟨⟨_, rfl⟩, by decide, by decide, _, rfl⟩

theorem witness_ReceiveTimerAndEdgeFollowBusy : (∃ t, exec (.init 9600 9600) cold = .next t) ∧
    (bothDue.inited = true ∧ bothDue.rx.armed = bothDue.rx.busy ∧ bothDue.rx.edgeEn = (!bothDue.rx.busy) ∧
      ∃ t, step (bothDue.withFetchWord 40 0x1000000001) = .next t) := ⟨⟨_, rfl⟩, by decide, by decide, by decide, _, rfl⟩

theorem witness_RingIndicesAgree : (cold.withRing (ring1 0x11#8)).ring.count ≤ tCfg.ringCap ∧
    (ring1 0x11#8).tail = ((ring1 0x11#8).head + (ring1 0x11#8).count) % tCfg.ringCap ∧
    ∃ t, step ((cold.withRing (ring1 0x11#8)).withFetchWord 40 0x2000000022) = .next t := ⟨by decide, by decide, _, rfl⟩

/-! #### Frames -/

theorem witness_FrameOfInitAndSetbaud : (∃ t, exec (.init 9600 9600) cold = .next t) ∧
    ∃ t, exec (.setbaud 4800 0) ready = .next t := ⟨⟨_, rfl⟩, _, rfl⟩

theorem witness_FrameOfTransmitOperations : (∃ t, exec .txtick sending = .next t) ∧
    (∃ t, exec (.txbyte 0x41#8) ready = .next t) ∧ ∃ t, exec (.begintx 0x41#8) ready = .next t :=
  ⟨⟨_, rfl⟩, ⟨_, rfl⟩, _, rfl⟩

theorem witness_FrameOfReceiveOperations : (∃ t, exec .edge ready = .next t) ∧ (∃ t, exec .rxtick bothDue = .next t) ∧
    ∃ t, exec (.line false) ready = .next t := ⟨⟨_, rfl⟩, ⟨_, rfl⟩, _, rfl⟩

theorem witness_FrameOfRingOperations : (∃ t, exec .deq (ready.withRing (ring1 0x41#8)) = .next t) ∧
    (∃ t, exec .rxpoll ready = .next t) ∧ (∃ t, exec .isempty ready = .next t) ∧
    ∃ t, exec (.enq 0x41#8) ready = .next t := ⟨⟨_, rfl⟩, ⟨_, rfl⟩, ⟨_, rfl⟩, _, rfl⟩

theorem witness_FrameOfAssemblerOperations : (∃ t, exec .laidle (ready.withRing (ring1 0x41#8)) = .next t) ∧
    (∃ t, exec .laacc nearlyFull = .next t) ∧ accumulating.ring.count = 0 := ⟨⟨_, rfl⟩, ⟨_, rfl⟩, by decide⟩

theorem witness_FrameOfRewriterOperations : (∃ t, exec .srstart sentence = .next t) ∧
    (∃ t, exec .srread ((atStart [0x43#8]).withFg .srRead) = .next t) ∧ (∃ t, exec .srparse padding = .next t) ∧
    (∃ t, exec .srend (ready.withFg .srEnd) = .next t) ∧ ∃ t, exec .sremit (emitting ready) = .next t :=
  ⟨⟨_, rfl⟩, ⟨_, rfl⟩, ⟨_, rfl⟩, ⟨_, rfl⟩, _, rfl⟩

end Sys2Proof.Tests
end

section
/-! PROOFS. The step, operation by operation along a schedule (spec 00_scope R16, 10_state R46): what a step does with
the schedule's first word, and what a list of operations does with its first operation. -/

namespace Sys2Proof.Machine

theorem step_of_sched_nil {s : State} (h : s.sched = []) : step s = .next s := by
  simp [step, takeStep, fetch, h]

/-- A step runs the first word on the state with that word taken, whatever the outcome. -/
theorem step_of_sched_cons {s : State} {w : OpWord} {rest : List OpWord} (h : s.sched = w :: rest) :
    step s = runWord w (s.withSched rest) := by
  simp [step, takeStep, fetch, h]

theorem runWord_of_decode_ok {w : OpWord} {i : Instr} (h : decode w = .ok i) (s : State) :
    runWord w s = exec i s := by
  simp [runWord, h]

theorem execAll_cons_of_next {i : Instr} {is : List Instr} {s t : State} (h : exec i s = .next t) :
    execAll (i :: is) s = execAll is t := by
  simp [execAll, h]

end Sys2Proof.Machine

namespace Sys2Proof.Proofs

open Sys2Proof.Machine

/-- Settles O6: the schedule's first word is fetched, and running a word that spells an operation is `exec` of it. -/
theorem stepRunsTheScheduledOperation : Obligations.StepRunsTheScheduledOperation := by
  unfold Obligations.StepRunsTheScheduledOperation
  refine ⟨fun s w rest i hsched hdecode => ?_, fun s hsched => step_of_sched_nil hsched⟩
  rw [step_of_sched_cons hsched, runWord_of_decode_ok hdecode]

end Sys2Proof.Proofs
end

section
/-! PROOFS. The frame law (spec 41_transmitter R143): the whole Transmitter in each slot of a frame, that a tick leads
from a slot to the next, and the run of BEGINTX and `k` ticks. -/

namespace Sys2Proof.Machine

/-! ### The Transmitter in a slot -/

/-- The Transmitter in slot `k` of the frame of `b`, `k` at most 9 (R143): the byte shifted by `k`, `8 - k` bits left,
sending until the stop bit of slot 9 is on the line. -/
def Transmitter.inSlot (c : Config) (b : Byte) (k : Nat) : Transmitter :=
  { sr := b >>> k, bits := BitVec.ofNat 4 (8 - k), busy := decide (k ≤ 8), line := frameLevel c b k,
    armed := decide (k ≤ 8) }

theorem Transmitter.load_eq_inSlot (c : Config) (b : Byte) : Transmitter.load c b = Transmitter.inSlot c b 0 := by
  simp [Transmitter.load, Transmitter.inSlot, frameLevel]

theorem Transmitter.inSlot_bits_toNat (c : Config) (b : Byte) (k : Nat) :
    (Transmitter.inSlot c b k).bits.toNat = 8 - k := by
  simp only [Transmitter.inSlot, BitVec.toNat_ofNat]
  omega

/-- In slots 0 to 7 bits are left, and the tick puts bit `k` of the byte on the line. -/
theorem Transmitter.tick_inSlot_data {c : Config} {b : Byte} {k : Nat} (hk : k < 8) :
    (Transmitter.inSlot c b k).tick c = Transmitter.inSlot c b (k + 1) := by
  have bitsLeft : BitVec.ofNat 4 (8 - k) ≠ 0#4 := by
    rw [Ne, ← BitVec.toNat_inj, BitVec.toNat_ofNat, BitVec.toNat_ofNat]; omega
  have oneLess : BitVec.ofNat 4 (8 - k) - 1#4 = BitVec.ofNat 4 (8 - (k + 1)) := by
    rw [← BitVec.toNat_inj, BitVec.toNat_sub]; simp only [BitVec.toNat_ofNat]; omega
  have shifted : b >>> k >>> 1 = b >>> (k + 1) := (BitVec.shiftRight_add b k 1).symm
  simp [Transmitter.tick, Transmitter.inSlot, frameLevel, bitsLeft, oneLess, shifted, hk.le,
    Nat.succ_le_of_lt hk]

/-- In slot 8 no bit is left, and the tick puts the stop bit on the line. -/
theorem Transmitter.tick_inSlot_stop (c : Config) (b : Byte) :
    (Transmitter.inSlot c b 8).tick c = Transmitter.inSlot c b 9 := by
  have noByteLeft (n : Nat) (hn : 8 ≤ n) : b >>> n = 0#8 := BitVec.ushiftRight_eq_zero hn
  simp [Transmitter.tick, Transmitter.inSlot, frameLevel, noByteLeft]

theorem Transmitter.tick_inSlot {c : Config} {b : Byte} {k : Nat} (hk : k ≤ 8) :
    (Transmitter.inSlot c b k).tick c = Transmitter.inSlot c b (k + 1) := by
  rcases hk.lt_or_eq with hdata | rfl
  · exact Transmitter.tick_inSlot_data hdata
  · exact Transmitter.tick_inSlot_stop c b

theorem frameLevels_getElem? (c : Config) (b : Byte) {k : Nat} (hk : k ≤ 9) :
    (frameLevels c b)[k]? = some (frameLevel c b k) := by
  simp [frameLevels, List.getElem?_range (Nat.lt_succ_of_le hk)]

/-! ### The run -/

theorem exec_begintx_of_idle {s : State} {b : Byte} (hinit : s.inited = true) (hcfg : s.cfg.tx.isSome = true)
    (hidle : s.tx.busy = false) : exec (.begintx b) s = .next ((beginFrame s b).withOut .unit) :=
  execBegintx_next.mpr ⟨hinit, hcfg, hidle, rfl⟩

theorem exec_txtick_of_armed {s : State} (h : s.tx.armed = true) :
    exec .txtick s = .next ((s.withTx (s.tx.tick s.par)).withOut .unit) :=
  execTxtick_next.mpr (.inr ⟨h, rfl⟩)

theorem exec_txtick_of_disarmed {s : State} (h : s.tx.armed = false) : exec .txtick s = .next (s.withOut .held) :=
  execTxtick_next.mpr (.inl ⟨h, rfl⟩)

/-- `k` ticks lead from slot `j` of a frame to slot `j + k` and touch nothing but the Transmitter. -/
theorem execAll_ticks_from_slot (s : State) (b : Byte) (j k : Nat) (h : j + k ≤ 9) :
    execAll (List.replicate k .txtick) ((s.withTx (Transmitter.inSlot s.par b j)).withOut .unit) =
      .next ((s.withTx (Transmitter.inSlot s.par b (j + k))).withOut .unit) := by
  induction k generalizing j with
  | zero => rfl
  | succ k ih =>
    have hj : j ≤ 8 := by omega
    have htick : exec .txtick ((s.withTx (Transmitter.inSlot s.par b j)).withOut .unit) =
        .next ((s.withTx (Transmitter.inSlot s.par b (j + 1))).withOut .unit) := by
      rw [exec_txtick_of_armed (by simpa [Transmitter.inSlot] using hj)]
      simp only [State.withOut_tx, State.withTx_tx, State.withOut_par, State.withTx_par, Transmitter.tick_inSlot hj]
      rfl
    rw [List.replicate_succ, execAll_cons_of_next htick, ih (j + 1) (by omega), Nat.add_right_comm, Nat.add_assoc]

/-- BEGINTX `b` on an idle Transmitter and `k` ticks lead to slot `k` of the frame of `b` (R143). -/
theorem execAll_begintx_ticks {s : State} {b : Byte} {k : Nat} (hinit : s.inited = true)
    (hcfg : s.cfg.tx.isSome = true) (hidle : s.tx.busy = false) (hk : k ≤ 9) :
    execAll (.begintx b :: List.replicate k .txtick) s =
      .next (((beginFrame s b).withTx (Transmitter.inSlot s.par b k)).withOut .unit) := by
  have hload : (beginFrame s b).withOut .unit =
      ((beginFrame s b).withTx (Transmitter.inSlot (beginFrame s b).par b 0)).withOut .unit := by
    rw [← Transmitter.load_eq_inSlot]; rfl
  rw [execAll_cons_of_next (exec_begintx_of_idle hinit hcfg hidle), hload,
    execAll_ticks_from_slot (beginFrame s b) b 0 k (by omega), Nat.zero_add]
  rfl

end Sys2Proof.Machine

namespace Sys2Proof.Proofs

open Sys2Proof.Machine

/-- Settles O16: the levels by exclusive-or with the two values of `INVERT`; the frame law by induction on the ticks,
with the whole Transmitter in slot `k` (`Transmitter.inSlot`) as the induction's statement. -/
theorem frameLaw : Obligations.FrameLaw := by
  unfold Obligations.FrameLaw
  constructor
  · intro c
    constructor <;> intro hinvert <;> simp [markLevel, spaceLevel, levelOf, logicOf, hinvert]
  · intro s b k hinit hcfg hidle hk
    refine ⟨_, execAll_begintx_ticks hinit hcfg hidle hk, rfl, ?_, fun _ _ => ⟨rfl, ?_⟩, rfl, rfl, ?_⟩
    · rw [frameLevels_getElem? s.par b hk]; rfl
    · exact Transmitter.inSlot_bits_toNat s.par b k
    · rintro rfl
      exact exec_txtick_of_disarmed rfl

end Sys2Proof.Proofs
end

section
/-! PROOFS. What an operation can do, cut into moves: each move is one guarded assignment to one component of the state,
and an operation that steps is a chain of at most a few of them (30_encoding R112, 40_ringbuffer to
45_sentence_rewriter). What every move keeps, every step keeps. -/

namespace Sys2Proof.Machine

/-- A move of the LineAssembler or the SentenceRewriter (R112, R171 to R173, R182 to R187), without the poll of the ring
that comes before it and the load of the Transmitter that comes after it. -/
inductive SequencerMove (s : State) : State → Prop where
  /-- the first byte of a cycle goes to cell 0 (R171) -/
  | beginLine (b : Byte) (hfg : s.fg = .laIdle) (hqueue : s.scan.emitq = []) (hcell : (0#16).toNat < s.par.lineCap)
      (hnext : (0#16 + 1#16).toNat < s.par.lineCap) : SequencerMove s ((stored s 0#16 b).withFg .laAcc)
  /-- a byte is appended at `wr`, then the end tests (R172) -/
  | growLine (b : Byte) (hfg : s.fg = .laAcc) (hqueue : s.scan.emitq = []) (hcell : s.buf.wr.toNat < s.par.lineCap)
      (hnext : (s.buf.wr + 1#16).toNat < s.par.lineCap) : SequencerMove s (endCycle (stored s s.buf.wr b))
  /-- a poll without a byte is counted, then the end tests (R172) -/
  | countPoll (hfg : s.fg = .laAcc) (hqueue : s.scan.emitq = []) : SequencerMove s (endCycle (countIdle s))
  /-- SRSTART (R182) -/
  | classify (hfg : s.fg = .srStart) (hqueue : s.scan.emitq = []) : SequencerMove s (classifyLine s)
  /-- SRREAD (R183) -/
  | read (hfg : s.fg = .srRead) (hqueue : s.scan.emitq = []) : SequencerMove s (readByte s)
  /-- SRPARSE (R184) -/
  | parse (hfg : s.fg = .srParse) (hqueue : s.scan.emitq = []) : SequencerMove s (parseStep s)
  /-- SREND (R186) -/
  | endPass (hfg : s.fg = .srEnd) (hqueue : s.scan.emitq = []) : SequencerMove s (s.withFg .laIdle)
  /-- the head of the emit queue leaves it (R187) -/
  | dropEmitted (hfg : s.fg.inRewriter = true) (hqueue : s.scan.emitq ≠ []) : SequencerMove s (dropEmitted s)

/-- A move of the block. -/
inductive Move (s : State) : State → Prop where
  /-- `rx_line` and the model's own fields but `par` -/
  | outside (l : Level) (r : Result) (log : List Byte) (ws : List OpWord) :
      Move s { s with rxLine := l, out := r, txLog := log, sched := ws }
  /-- the assignments of INIT (R161) -/
  | initialise (txBaud rxBaud : Nat) (hinit : s.inited = false) : Move s (initialise s txBaud rxBaud)
  /-- both rates are resolved (R162) -/
  | setRates (txBaud rxBaud : Nat) (hinit : s.inited = true) : Move s (s.withCfg (resolveBoth s txBaud rxBaud))
  /-- the Transmitter is loaded (R141) -/
  | load (b : Byte) (hinit : s.inited = true) (hcfg : s.cfg.tx.isSome = true) (hbusy : s.tx.busy = false) :
      Move s (s.withTx (Transmitter.load s.par b))
  /-- the transmit tick (R142) -/
  | txTick (harmed : s.tx.armed = true) : Move s (s.withTx (s.tx.tick s.par))
  /-- the edge handler's body (R151) -/
  | startBit (hinit : s.inited = true) (hedge : s.rx.edgeEn = true) (hcfg : s.cfg.rx.isSome = true) :
      Move s (s.withRx s.rx.start)
  /-- one of the first seven bits is sampled (R152) -/
  | sampleBit (harmed : s.rx.armed = true) (hbusy : s.rx.busy = true) (hbits : (s.rx.bits + 1#4).toNat < 8) :
      Move s (s.withRx (s.rx.sample s.par s.rxLine).rearm)
  /-- the last bit is sampled (R152) -/
  | sampleLastBit (harmed : s.rx.armed = true) (hbusy : s.rx.busy = true) (hbits : 8 ≤ (s.rx.bits + 1#4).toNat) :
      Move s (s.withRx (s.rx.sample s.par s.rxLine).finish)
  /-- a byte enters the ring (R131) -/
  | put (b : Byte) (hcount : s.ring.count ≠ s.par.ringCap) (htail : s.ring.tail < s.par.ringCap) :
      Move s (s.withRing (s.ring.put s.par b))
  /-- the oldest byte leaves the ring (R132) -/
  | drop (hcount : s.ring.count ≠ 0) (hhead : s.ring.head < s.par.ringCap) : Move s (s.withRing (s.ring.drop s.par))
  /-- a move of the sequencer, which needs INIT (R166) -/
  | sequencer {t : State} (hinit : s.inited = true) (h : SequencerMove s t) : Move s t

/-- A chain of moves. -/
abbrev Moves : State → State → Prop := Relation.ReflTransGen Move

/-! ### Operations as chains of moves -/

/-- A chain of moves, and the operation's result. -/
theorem Moves.answer {s t : State} (h : Moves s t) (r : Result) : Moves s (t.withOut r) :=
  h.tail (.outside t.rxLine r t.txLog t.sched)

theorem Move.answer {s t : State} (h : Move s t) (r : Result) : Moves s (t.withOut r) := Moves.answer (.single h) r

theorem Move.withRxLine (s : State) (l : Level) : Move s (s.withRxLine l) := .outside l s.out s.txLog s.sched

theorem Move.withTxLog (s : State) (log : List Byte) : Move s (s.withTxLog log) := .outside s.rxLine s.out log s.sched

theorem Move.withSched (s : State) (ws : List OpWord) : Move s (s.withSched ws) := .outside s.rxLine s.out s.txLog ws

theorem Moves.of_beginFrame {s : State} (b : Byte) (hinit : s.inited = true) (hcfg : s.cfg.tx.isSome = true)
    (hbusy : s.tx.busy = false) : Moves s (beginFrame s b) :=
  .head (.load b hinit hcfg hbusy) (.single (.withTxLog _ _))

theorem Moves.of_enqueue {s t : State} {b : Byte} {ok : Bool} (h : enqueue s b = .ok (ok, t)) : Moves s t := by
  obtain ⟨-, -, rfl⟩ | ⟨hcount, htail, -, rfl⟩ := enqueue_ok.mp h
  · exact .refl
  · exact .single (.put b hcount htail)

theorem Moves.of_dequeue {s t : State} {r : Option Byte} (h : dequeue s = .ok (r, t)) : Moves s t := by
  obtain ⟨-, -, rfl⟩ | ⟨hcount, hhead, -, rfl⟩ := dequeue_ok.mp h
  · exact .refl
  · exact .single (.drop hcount hhead)

/-- A poll of the ring touches nothing but the ring. -/
theorem dequeue_eq_withRing {s t : State} {r : Option Byte} (h : dequeue s = .ok (r, t)) : t = s.withRing t.ring := by
  obtain ⟨-, -, rfl⟩ | ⟨-, -, -, rfl⟩ := dequeue_ok.mp h <;> rfl

/-- An enqueue touches nothing but the ring. -/
theorem enqueue_eq_withRing {s t : State} {b : Byte} {ok : Bool} (h : enqueue s b = .ok (ok, t)) :
    t = s.withRing t.ring := by
  obtain ⟨-, -, rfl⟩ | ⟨-, -, -, rfl⟩ := enqueue_ok.mp h <;> rfl

theorem FgState.operation_injective : Function.Injective FgState.operation := by
  intro f g h
  cases f <;> cases g <;> simp [FgState.operation] at h ⊢

/-- A control state's own operation is attached only in that state, with an empty queue (R112). -/
theorem fg_of_attachedOp {s : State} {f : FgState} (h : attachedOp s = some f.operation) :
    s.fg = f ∧ s.scan.emitq = [] := by
  obtain ⟨hqueue, hop⟩ | ⟨-, -, hemit⟩ := attachedOp_eq.mp h
  · exact ⟨FgState.operation_injective hop, hqueue⟩
  · exact absurd hemit f.operation_eq_sremit

/-- SREMIT is attached only in the rewriter's states, with a byte in the queue (R112). -/
theorem rewriter_of_attachedOp_sremit {s : State} (h : attachedOp s = some .sremit) :
    s.fg.inRewriter = true ∧ s.scan.emitq ≠ [] := by
  obtain ⟨-, hop⟩ | ⟨hqueue, hrewriter, -⟩ := attachedOp_eq.mp h
  · exact absurd hop s.fg.operation_eq_sremit
  · exact ⟨hrewriter, hqueue⟩

/-- An operation of the rewriter's states makes its move where it is attached, and holds elsewhere (R112). -/
theorem Moves.of_attached {s t u : State} {f : FgState} (hmove : s.fg = f → s.scan.emitq = [] → SequencerMove s u)
    (h : s.inited = true ∧ ((attachedOp s = some f.operation ∧ u.withOut .unit = t) ∨
      (attachedOp s ≠ some f.operation ∧ s.withOut .held = t))) : Moves s t := by
  obtain ⟨hinit, ⟨hop, rfl⟩ | ⟨-, rfl⟩⟩ := h
  · obtain ⟨hfg, hqueue⟩ := fg_of_attachedOp hop
    exact Move.answer (.sequencer hinit (hmove hfg hqueue)) _
  · exact Moves.answer .refl _

theorem Moves.of_execRxtick {s t : State} (h : execRxtick s = .next t) : Moves s t := by
  obtain ⟨-, rfl⟩ | ⟨harmed, hbusy, hbits, rfl⟩ | ⟨harmed, hbusy, hbits, ok, u, hput, rfl⟩ := execRxtick_next.mp h
  · exact Moves.answer .refl _
  · exact Move.answer (.sampleBit harmed hbusy hbits) _
  · obtain ⟨hrx, hline, hpar⟩ : u.rx = s.rx ∧ u.rxLine = s.rxLine ∧ u.par = s.par := by
      rw [enqueue_eq_withRing hput]; exact ⟨rfl, rfl, rfl⟩
    rw [← hrx, ← hline, ← hpar]
    rw [← hrx] at harmed hbusy hbits
    exact Moves.answer ((Moves.of_enqueue hput).tail (.sampleLastBit harmed hbusy hbits)) _

theorem Moves.of_execLaidle {s t : State} (h : execLaidle s = .next t) : Moves s t := by
  obtain ⟨hinit, ⟨-, rfl⟩ | ⟨hop, r, u, hpoll, h⟩⟩ := execLaidle_next.mp h
  · exact Moves.answer .refl _
  obtain ⟨hfg, hqueue⟩ := fg_of_attachedOp (f := .laIdle) hop
  refine (Moves.of_dequeue hpoll).trans ?_
  rw [dequeue_eq_withRing hpoll] at h ⊢
  obtain ⟨-, rfl⟩ | ⟨b, v, -, hstore, rfl⟩ := h
  · exact Moves.answer .refl _
  · obtain ⟨hcell, hnext, rfl⟩ := storeByte_ok.mp hstore
    exact Move.answer (s := s.withRing u.ring) (.sequencer hinit (.beginLine b hfg hqueue hcell hnext)) _

theorem Moves.of_execLaacc {s t : State} (h : execLaacc s = .next t) : Moves s t := by
  obtain ⟨hinit, ⟨-, rfl⟩ | ⟨hop, r, u, hpoll, h⟩⟩ := execLaacc_next.mp h
  · exact Moves.answer .refl _
  obtain ⟨hfg, hqueue⟩ := fg_of_attachedOp (f := .laAcc) hop
  refine (Moves.of_dequeue hpoll).trans ?_
  rw [dequeue_eq_withRing hpoll] at h ⊢
  obtain ⟨-, rfl⟩ | ⟨b, v, -, hstore, rfl⟩ := h
  · exact Move.answer (s := s.withRing u.ring) (.sequencer hinit (.countPoll hfg hqueue)) _
  · obtain ⟨hcell, hnext, rfl⟩ := storeByte_ok.mp hstore
    exact Move.answer (s := s.withRing u.ring) (.sequencer hinit (.growLine b hfg hqueue hcell hnext)) _

theorem Moves.of_execSremit {s t : State} (h : execSremit s = .next t) : Moves s t := by
  obtain ⟨hinit, ⟨-, -, -, rfl⟩ | ⟨hop, hcfg, hbusy, rfl⟩ | ⟨-, rfl⟩⟩ := execSremit_next.mp h
  · exact Moves.answer .refl _
  · obtain ⟨hfg, hqueue⟩ := rewriter_of_attachedOp_sremit hop
    have hload := Moves.of_beginFrame (s := dropEmitted s) (s.scan.emitq.headD 0#8) hinit hcfg hbusy
    exact Moves.answer (.head (.sequencer hinit (.dropEmitted hfg hqueue)) hload) _
  · exact Moves.answer .refl _

/-- An operation that answers a next state gets there by moves. -/
theorem Moves.of_exec {i : Instr} {s t : State} (h : exec i s = .next t) : Moves s t := by
  cases i with
  | init txBaud rxBaud =>
    obtain ⟨hinit, rfl⟩ := execInit_next.mp h
    exact Move.answer (.initialise _ _ hinit) _
  | setbaud txBaud rxBaud =>
    obtain ⟨hinit, rfl⟩ := execSetbaud_next.mp h
    exact Move.answer (.setRates _ _ hinit) _
  | txbyte b =>
    obtain ⟨hinit, hcfg, ⟨-, rfl⟩ | ⟨hbusy, rfl⟩⟩ := execTxbyte_next.mp h
    · exact Moves.answer .refl _
    · exact (Moves.of_beginFrame b hinit hcfg hbusy).answer _
  | rxpoll =>
    obtain ⟨-, r, u, hpoll, rfl⟩ := execRxpoll_next.mp h
    exact (Moves.of_dequeue hpoll).answer _
  | txtick =>
    obtain ⟨-, rfl⟩ | ⟨harmed, rfl⟩ := execTxtick_next.mp h
    · exact Moves.answer .refl _
    · exact Move.answer (.txTick harmed) _
  | rxtick => exact Moves.of_execRxtick h
  | edge =>
    obtain ⟨-, rfl⟩ | ⟨henabled, hcfg, rfl⟩ := execEdge_next.mp h
    · exact Moves.answer .refl _
    · obtain ⟨hinit, hedge⟩ := Bool.and_eq_true_iff.mp henabled
      exact Move.answer (.startBit hinit hedge hcfg) _
  | line l =>
    obtain ⟨-, rfl⟩ | ⟨hfires, hcfg, rfl⟩ := execLine_next.mp h
    · exact (Move.withRxLine s l).answer _
    · obtain ⟨⟨⟨hinit, hedge⟩, -⟩, -⟩ : ((s.inited = true ∧ s.rx.edgeEn = true) ∧ _) ∧ _ := by
        simpa only [edgeFires, Bool.and_eq_true] using hfires
      exact .head (.withRxLine s l) (Move.answer (s := s.withRxLine l) (.startBit hinit hedge hcfg) _)
  | enq b =>
    obtain ⟨ok, u, hput, rfl⟩ := execEnq_next.mp h
    exact (Moves.of_enqueue hput).answer _
  | deq =>
    obtain ⟨r, u, hpoll, rfl⟩ := execDeq_next.mp h
    exact (Moves.of_dequeue hpoll).answer _
  | isempty =>
    obtain rfl := execIsempty_next.mp h
    exact Moves.answer .refl _
  | begintx b =>
    obtain ⟨hinit, hcfg, hbusy, rfl⟩ := execBegintx_next.mp h
    exact (Moves.of_beginFrame b hinit hcfg hbusy).answer _
  | laidle => exact Moves.of_execLaidle h
  | laacc => exact Moves.of_execLaacc h
  | srstart => exact Moves.of_attached (f := .srStart) .classify (execSrstart_next.mp h)
  | srread => exact Moves.of_attached (f := .srRead) .read (execSrread_next.mp h)
  | srparse => exact Moves.of_attached (f := .srParse) .parse (execSrparse_next.mp h)
  | srend => exact Moves.of_attached (f := .srEnd) .endPass (execSrend_next.mp h)
  | sremit => exact Moves.of_execSremit h

/-- A step that answers a next state gets there by moves. -/
theorem Moves.of_step {s t : State} (h : step s = .next t) : Moves s t := by
  obtain ⟨-, rfl⟩ | ⟨w, rest, i, -, -, hexec⟩ := step_next.mp h
  · exact .refl
  · exact .head (.withSched s rest) (Moves.of_exec hexec)

/-- What every move keeps, a chain of moves keeps. -/
theorem Moves.keep {P : State → Prop} (hmove : ∀ {s t : State}, Move s t → P s → P t) {s t : State} (h : Moves s t)
    (hs : P s) : P t := by
  induction h with
  | refl => exact hs
  | tail _ hlast ih => exact hmove hlast ih

end Sys2Proof.Machine
end

section
/-! PROOFS. What every move keeps of the Transmitter, the Receiver and the ring (10_state R22, R27, R33, R54 to R56). -/

namespace Sys2Proof.Machine

/-! ### The frame of the sequencer's moves -/

/-- `t` differs from `s` in the scan and the control state at most. -/
def OnlyScan (s t : State) : Prop := t = (s.withScan t.scan).withFg t.fg

theorem onlyScan_handOff (s : State) : OnlyScan s (handOff s) := rfl

theorem endCycle_cases (s : State) :
    (cycleEnds s = true ∧ endCycle s = handOff s) ∨ (cycleEnds s = false ∧ endCycle s = s) := by
  unfold endCycle; split <;> simp_all

theorem onlyScan_endCycle (s : State) : OnlyScan s (endCycle s) := by
  obtain ⟨-, h⟩ | ⟨-, h⟩ := endCycle_cases s <;> rw [h] <;> rfl

theorem onlyScan_classifyLine (s : State) : OnlyScan s (classifyLine s) := by
  unfold classifyLine; dsimp only; repeat' split
  all_goals rfl

theorem onlyScan_readByte (s : State) : OnlyScan s (readByte s) := by
  unfold readByte; split <;> rfl

theorem onlyScan_parseStep (s : State) : OnlyScan s (parseStep s) := by
  unfold parseStep; dsimp only; repeat' split
  all_goals rfl

/-- The part of the state that no move of the sequencer touches. -/
structure SameTransceiver (s t : State) : Prop where
  par : t.par = s.par
  tx : t.tx = s.tx
  rx : t.rx = s.rx
  ring : t.ring = s.ring
  cfg : t.cfg = s.cfg
  inited : t.inited = s.inited

theorem OnlyScan.sameTransceiver {s t : State} (h : OnlyScan s t) : SameTransceiver s t := by
  rw [h]; exact ⟨rfl, rfl, rfl, rfl, rfl, rfl⟩

theorem OnlyScan.buf_eq {s t : State} (h : OnlyScan s t) : t.buf = s.buf := by rw [h]; rfl

/-- A change of the LineBuffer, and then of the scan, leaves the transceiver. -/
theorem OnlyScan.sameTransceiver_withBuf {s t : State} {v : LineBuffer} (h : OnlyScan (s.withBuf v) t) :
    SameTransceiver s t := by
  rw [h]; exact ⟨rfl, rfl, rfl, rfl, rfl, rfl⟩

theorem SequencerMove.sameTransceiver {s t : State} (h : SequencerMove s t) : SameTransceiver s t := by
  cases h with
  | beginLine => exact ⟨rfl, rfl, rfl, rfl, rfl, rfl⟩
  | growLine b => exact (onlyScan_endCycle (stored s s.buf.wr b)).sameTransceiver_withBuf
  | countPoll => exact (onlyScan_endCycle (countIdle s)).sameTransceiver_withBuf
  | classify => exact (onlyScan_classifyLine s).sameTransceiver
  | read => exact (onlyScan_readByte s).sameTransceiver
  | parse => exact (onlyScan_parseStep s).sameTransceiver
  | endPass => exact ⟨rfl, rfl, rfl, rfl, rfl, rfl⟩
  | dropEmitted => exact ⟨rfl, rfl, rfl, rfl, rfl, rfl⟩

/-! ### The parameters and `inited` -/

theorem Move.par_eq {s t : State} (h : Move s t) : t.par = s.par := by
  cases h with
  | sequencer _ h => exact h.sameTransceiver.par
  | _ => rfl

/-- INIT is never undone. -/
theorem Move.inited {s t : State} (h : Move s t) (hs : s.inited = true) : t.inited = true := by
  cases h with
  | initialise => rfl
  | sequencer _ h => rw [h.sameTransceiver.inited, hs]
  | _ => exact hs

/-! ### The Transmitter -/

theorem Transmitter.tick_armed (c : Config) (t : Transmitter) : (t.tick c).armed = (t.tick c).busy := by
  obtain ⟨hbusy, h⟩ | ⟨-, -, h⟩ | ⟨-, -, h⟩ := Transmitter.tick_cases c t <;> simp [h]
  exact hbusy

theorem Transmitter.busy_of_tick {c : Config} {t : Transmitter} (h : (t.tick c).busy = true) : t.busy = true := by
  obtain ⟨-, e⟩ | ⟨hbusy, -, -⟩ | ⟨hbusy, -, -⟩ := Transmitter.tick_cases c t
  · rwa [e] at h
  · exact hbusy
  · exact hbusy

theorem Transmitter.tick_bits_le {c : Config} {t : Transmitter} (h : t.bits.toNat ≤ 8) : (t.tick c).bits.toNat ≤ 8 := by
  obtain ⟨-, e⟩ | ⟨-, hbits, e⟩ | ⟨-, -, e⟩ := Transmitter.tick_cases c t <;> rw [e]
  · exact h
  · show (t.bits - 1#4).toNat ≤ 8
    bv_omega
  · exact h

/-- R54 before and after INIT. -/
theorem Move.tx_armed {s t : State} (h : Move s t) (hs : s.tx.armed = s.tx.busy) : t.tx.armed = t.tx.busy := by
  cases h with
  | initialise => rfl
  | load => rfl
  | txTick => exact Transmitter.tick_armed s.par s.tx
  | sequencer _ h => rw [h.sameTransceiver.tx, hs]
  | _ => exact hs

theorem resolveRate_isSome {c : Config} {rate : Nat} {previous : Option RateEntry} (h : previous.isSome = true) :
    (resolveRate c rate previous).1.isSome = true := by
  unfold resolveRate; split
  · rfl
  · exact h

theorem Move.keeps_transmitter {s t : State} (h : Move s t) (hs : TransmitterOk s) : TransmitterOk t := by
  obtain ⟨hbits, harmed, hready⟩ := hs
  refine ⟨?_, h.tx_armed harmed, ?_⟩
  · cases h with
    | load => exact Nat.le_refl 8
    | txTick => exact Transmitter.tick_bits_le hbits
    | sequencer _ h => rwa [h.sameTransceiver.tx]
    | _ => exact hbits
  · intro hbusy
    cases h with
    | initialise => cases hbusy
    | setRates => exact (hready hbusy).imp id resolveRate_isSome
    | load _ hinit hcfg => exact ⟨hinit, hcfg⟩
    | txTick => exact hready (Transmitter.busy_of_tick hbusy)
    | sequencer _ h =>
      rw [h.sameTransceiver.tx] at hbusy
      rw [h.sameTransceiver.inited, h.sameTransceiver.cfg]
      exact hready hbusy
    | _ => exact hready hbusy

/-! ### The Receiver -/

/-- R55, with `edge_en` false before INIT (R53), as long as nothing is sampled before INIT. -/
theorem Move.rx_armed_and_edgeEn {s t : State} (h : Move s t) (hinit : s.rx.busy = true → s.inited = true)
    (hs : s.rx.armed = s.rx.busy ∧ s.rx.edgeEn = (s.inited && !s.rx.busy)) :
    t.rx.armed = t.rx.busy ∧ t.rx.edgeEn = (t.inited && !t.rx.busy) := by
  cases h with
  | initialise => exact ⟨rfl, rfl⟩
  | startBit => exact ⟨rfl, (Bool.and_false _).symm⟩
  | sampleBit _ hbusy => exact ⟨hbusy.symm, hs.2⟩
  | sampleLastBit _ hbusy => exact ⟨rfl, by simp [Receiver.finish, hinit hbusy]⟩
  | sequencer _ h => rwa [h.sameTransceiver.rx, h.sameTransceiver.inited]
  | _ => exact hs

theorem Move.keeps_receiver {s t : State} (h : Move s t) (hs : ReceiverOk s) : ReceiverOk t := by
  obtain ⟨hbits, hbusyBits, harmed, hedge, hready⟩ := hs
  obtain ⟨harmed', hedge'⟩ := h.rx_armed_and_edgeEn (fun hbusy => (hready hbusy).1) ⟨harmed, hedge⟩
  refine ⟨?_, ?_, harmed', hedge', ?_⟩
  · cases h with
    | startBit => exact Nat.zero_le 8
    | sampleBit _ _ hlast => exact hlast.le
    | sampleLastBit _ hbusy =>
      have := hbusyBits hbusy
      show (s.rx.bits + 1#4).toNat ≤ 8
      bv_omega
    | sequencer _ h => rwa [h.sameTransceiver.rx]
    | _ => exact hbits
  · intro hbusy
    cases h with
    | initialise => cases hbusy
    | startBit => exact Nat.zero_lt_succ 7
    | sampleBit _ _ hlast => exact hlast
    | sampleLastBit => cases hbusy
    | sequencer _ h =>
      rw [h.sameTransceiver.rx] at hbusy ⊢
      exact hbusyBits hbusy
    | _ => exact hbusyBits hbusy
  · intro hbusy
    cases h with
    | initialise => cases hbusy
    | setRates => exact (hready hbusy).imp id resolveRate_isSome
    | startBit hinit _ hcfg => exact ⟨hinit, hcfg⟩
    | sampleLastBit => cases hbusy
    | sequencer _ h =>
      rw [h.sameTransceiver.rx] at hbusy
      rw [h.sameTransceiver.inited, h.sameTransceiver.cfg]
      exact hready hbusy
    | _ => exact hready hbusy

/-! ### The ring -/

/-- R56 of a ring, without its state. -/
structure Ring.Agrees (c : Config) (r : Ring) : Prop where
  count_le : r.count ≤ c.ringCap
  tail_eq : r.tail = (r.head + r.count) % c.ringCap

theorem Ring.agrees_empty (c : Config) (cells : Memory) :
    Ring.Agrees c { cells := cells, head := 0, tail := 0, count := 0 } :=
  ⟨Nat.zero_le _, (Nat.zero_mod _).symm⟩

theorem Ring.Agrees.put {c : Config} {r : Ring} (h : r.Agrees c) (b : Byte) (hcount : r.count ≠ c.ringCap) :
    (r.put c b).Agrees c where
  count_le := Nat.lt_of_le_of_ne h.count_le hcount
  tail_eq := by
    show (r.tail + 1) % c.ringCap = (r.head + (r.count + 1)) % c.ringCap
    rw [h.tail_eq, Nat.mod_add_mod, Nat.add_assoc]

theorem Ring.Agrees.drop {c : Config} {r : Ring} (h : r.Agrees c) (hcount : r.count ≠ 0) : (r.drop c).Agrees c where
  count_le := (Nat.sub_le _ _).trans h.count_le
  tail_eq := by
    have hsum : r.head + 1 + (r.count - 1) = r.head + r.count := by omega
    show r.tail = ((r.head + 1) % c.ringCap + (r.count - 1)) % c.ringCap
    rw [Nat.mod_add_mod, hsum, h.tail_eq]

theorem Move.ring_agrees {s t : State} (h : Move s t) (hs : s.ring.Agrees s.par) : t.ring.Agrees t.par := by
  cases h with
  | initialise => exact Ring.agrees_empty s.par _
  | put b hcount => exact hs.put b hcount
  | drop hcount => exact hs.drop hcount
  | sequencer _ h => rwa [h.sameTransceiver.ring, h.sameTransceiver.par]
  | _ => exact hs

theorem RingOk.agrees {s : State} (h : RingOk s) : s.ring.Agrees s.par := ⟨h.count_le, h.tail_eq⟩

theorem Ring.Agrees.ringOk {s : State} (h : s.ring.Agrees s.par) (hhead : s.ring.head < s.par.ringCap) : RingOk s :=
  ⟨h.count_le, hhead, h.tail_eq⟩

theorem RingOk.cap_pos {s : State} (h : RingOk s) : 0 < s.par.ringCap := Nat.zero_lt_of_lt h.head_lt

theorem RingOk.tail_lt {s : State} (h : RingOk s) : s.ring.tail < s.par.ringCap :=
  h.tail_eq ▸ Nat.mod_lt _ h.cap_pos

theorem Move.keeps_ring {s t : State} (h : Move s t) (hs : RingOk s) : RingOk t := by
  refine (h.ring_agrees hs.agrees).ringOk ?_
  cases h with
  | initialise => exact hs.cap_pos
  | drop => exact Nat.mod_lt _ hs.cap_pos
  | sequencer _ h => rw [h.sameTransceiver.ring, h.sameTransceiver.par]; exact hs.head_lt
  | _ => exact hs.head_lt

end Sys2Proof.Machine

namespace Sys2Proof.Proofs

open Sys2Proof.Machine

/-- Settles O52: INIT disarms the timer and idles the Transmitter; every move of a step keeps the agreement. -/
theorem transmitTimerFollowsBusy : Obligations.TransmitTimerFollowsBusy := by
  unfold Obligations.TransmitTimerFollowsBusy
  constructor
  · intro s t a b h
    obtain ⟨-, rfl⟩ := execInit_next.mp h
    exact ⟨rfl, rfl⟩
  · intro s t hinit harmed h
    exact (Moves.of_step h).keep (P := fun u => u.inited = true ∧ u.tx.armed = u.tx.busy)
      (fun hm hu => ⟨hm.inited hu.1, hm.tx_armed hu.2⟩) ⟨hinit, harmed⟩

/-- Settles O53: INIT enables the detector and disarms the timer; every move of a step keeps the agreement. -/
theorem receiveTimerAndEdgeFollowBusy : Obligations.ReceiveTimerAndEdgeFollowBusy := by
  unfold Obligations.ReceiveTimerAndEdgeFollowBusy
  constructor
  · intro s t a b h
    obtain ⟨-, rfl⟩ := execInit_next.mp h
    exact ⟨rfl, rfl, rfl⟩
  · intro s t hinit harmed hedge h
    obtain ⟨hinit', harmed', hedge'⟩ := (Moves.of_step h).keep
      (P := fun u => u.inited = true ∧ u.rx.armed = u.rx.busy ∧ u.rx.edgeEn = (u.inited && !u.rx.busy))
      (fun hm hu => ⟨hm.inited hu.1, hm.rx_armed_and_edgeEn (fun _ => hu.1) hu.2⟩)
      ⟨hinit, harmed, by rw [hinit, hedge, Bool.true_and]⟩
    exact ⟨hinit', harmed', by rw [hedge', hinit', Bool.true_and]⟩

/-- Settles O54: the empty ring of reset agrees, and a byte put or dropped moves `tail` or `head` with the count. -/
theorem ringIndicesAgree : Obligations.RingIndicesAgree := by
  unfold Obligations.RingIndicesAgree
  constructor
  · intro c
    have h : (State.powerOn c).ring.Agrees c := Ring.agrees_empty c []
    exact ⟨h.count_le, h.tail_eq⟩
  · intro s t hcount htail h
    have h' : t.ring.Agrees t.par :=
      (Moves.of_step h).keep (P := fun u => u.ring.Agrees u.par) Move.ring_agrees ⟨hcount, htail⟩
    exact ⟨h'.count_le, h'.tail_eq⟩

end Sys2Proof.Proofs
end

section
/-! PROOFS. The invariant of the block (`Inv`): reset meets it, and what every move keeps of the memories, the line and
the scan (10_state R38, R39, R41, R44, R45; 20_memory R70, R72; 44_line_assembler R177). -/

namespace Sys2Proof.Machine

theorem Config.sizesOk_iff {c : Config} :
    c.sizesOk = true ↔ 1 ≤ c.ringCap ∧ 3 ≤ c.lineCap ∧ 1 ≤ c.tIdle ∧ c.tIdle ≤ 65535 ∧ 1 ≤ c.targetField ∧ 1 ≤ c.plen ∧
      c.lineCap + c.skip ≤ 65536 := by
  simp [Config.sizesOk, and_assoc]

/-- A cursor below the last 16-bit value does not wrap. -/
theorem toNat_next {w : Word} (h : w.toNat + 1 < 65536) : (w + 1#16).toNat = w.toNat + 1 :=
  BitVec.toNat_add_of_lt h

theorem atEnd_eq_false {s : State} {p : Nat} (h : ¬ atEnd s p = true) : p + 1 < s.par.lineCap := by
  simp only [atEnd, Bool.or_eq_true, decide_eq_true_eq, not_or, Nat.not_le] at h
  exact h.1

/-! ### Reset -/

theorem inv_powerOn {c : Config} (h : c.sizesOk = true) : Inv (State.powerOn c) where
  sizes := h
  memories := ⟨rfl, rfl, rfl, rfl⟩
  ring := (Ring.agrees_empty c []).ringOk (Config.sizesOk_iff.mp h).1
  transmitter := ⟨Nat.zero_le 8, rfl, nofun⟩
  receiver := ⟨Nat.zero_le 8, nofun, rfl, rfl, nofun⟩
  line := ⟨nofun, fun h => absurd rfl h, fun h => absurd rfl h, fun h => absurd rfl h⟩
  scan := by
    have hcap := (Config.sizesOk_iff.mp h).2.1
    refine ⟨?_, nofun, nofun, Nat.zero_le 4, fun _ => rfl, fun _ => rfl⟩
    show 0 + 1 ≤ c.lineCap + c.skip
    omega

/-! ### The memories -/

/-- The canonical form and the range of the LineBuffer's cells (R70). -/
structure LineCellsOk (s : State) : Prop where
  form : Memory.wf s.buf.cells = true
  range : Memory.within s.par.lineCap s.buf.cells = true

theorem lineCellsOk_stored {s : State} {at_ : Word} (b : Byte) (h : LineCellsOk s) (hcell : at_.toNat < s.par.lineCap)
    (hnext : (at_ + 1#16).toNat < s.par.lineCap) : LineCellsOk (stored s at_ b) where
  form := Memory.wf_write _ _ (Memory.wf_write _ _ h.form)
  range := Memory.within_write _ (Memory.within_write _ h.range hcell) hnext

theorem OnlyScan.lineCellsOk {s t : State} (h : OnlyScan s t) (hs : LineCellsOk s) : LineCellsOk t := by
  obtain ⟨hform, hrange⟩ := hs
  exact ⟨by rwa [h.buf_eq], by rwa [h.buf_eq, h.sameTransceiver.par]⟩

theorem SequencerMove.keeps_lineCells {s t : State} (h : SequencerMove s t) (hs : LineCellsOk s) : LineCellsOk t := by
  cases h with
  | beginLine b _ _ hcell hnext =>
    obtain ⟨hform, hrange⟩ := lineCellsOk_stored b hs hcell hnext
    exact ⟨hform, hrange⟩
  | growLine b _ _ hcell hnext => exact (onlyScan_endCycle _).lineCellsOk (lineCellsOk_stored b hs hcell hnext)
  | countPoll => exact (onlyScan_endCycle _).lineCellsOk ⟨hs.form, hs.range⟩
  | classify => exact (onlyScan_classifyLine s).lineCellsOk hs
  | read => exact (onlyScan_readByte s).lineCellsOk hs
  | parse => exact (onlyScan_parseStep s).lineCellsOk hs
  | endPass => exact ⟨hs.form, hs.range⟩
  | dropEmitted => exact ⟨hs.form, hs.range⟩

theorem Move.keeps_memories {s t : State} (h : Move s t) (hs : MemoriesOk s) : MemoriesOk t := by
  obtain ⟨hlbForm, hlbRange, hrbForm, hrbRange⟩ := hs
  cases h with
  | put b _ htail =>
    exact ⟨hlbForm, hlbRange, Memory.wf_write _ _ hrbForm, Memory.within_write _ hrbRange htail⟩
  | sequencer _ h =>
    obtain ⟨hform, hrange⟩ := h.keeps_lineCells ⟨hlbForm, hlbRange⟩
    refine ⟨hform, hrange, ?_, ?_⟩
    · rwa [h.sameTransceiver.ring]
    · rwa [h.sameTransceiver.ring, h.sameTransceiver.par]
  | _ => exact ⟨hlbForm, hlbRange, hrbForm, hrbRange⟩

/-! ### The line -/

/-- The sentinel stands at `wr` and the cells below it are written (R38, R177). -/
structure LineHeld (s : State) : Prop where
  cursor : 1 ≤ s.buf.wr.toNat ∧ s.buf.wr.toNat + 1 ≤ s.par.lineCap
  sentinel : Memory.lookup s.buf.cells s.buf.wr.toNat = some s.par.sent
  written : ∀ k, k < s.buf.wr.toNat → (Memory.lookup s.buf.cells k).isSome = true

theorem LineOk.held {s : State} (h : LineOk s) (hfg : s.fg ≠ .laIdle) : LineHeld s :=
  ⟨h.cursor hfg, h.sentinel hfg, h.written hfg⟩

theorem LineHeld.lineOk {s : State} (h : LineHeld s)
    (hacc : s.fg = .laAcc → s.buf.wr.toNat + 2 ≤ s.par.lineCap ∧ s.buf.idle.toNat < s.par.tIdle) : LineOk s :=
  ⟨hacc, fun _ => h.cursor, fun _ => h.sentinel, fun _ => h.written⟩

theorem OnlyScan.lineHeld {s t : State} (h : OnlyScan s t) (hs : LineHeld s) : LineHeld t := by
  rw [h]; exact ⟨hs.cursor, hs.sentinel, hs.written⟩

/-- In the rewriter's states the held line is all that is asked for. -/
theorem OnlyScan.lineOk_of_ne_laAcc {s t : State} (h : OnlyScan s t) (hs : LineHeld s) (hfg : t.fg ≠ .laAcc) :
    LineOk t :=
  (h.lineHeld hs).lineOk fun hacc => absurd hacc hfg

theorem lineHeld_stored {s : State} {at_ : Word} (b : Byte) (hnext : at_.toNat + 2 ≤ s.par.lineCap)
    (hcap : s.par.lineCap ≤ 65536)
    (hwritten : ∀ k, k < at_.toNat → (Memory.lookup s.buf.cells k).isSome = true) : LineHeld (stored s at_ b) := by
  have hwr : (stored s at_ b).buf.wr.toNat = at_.toNat + 1 := toNat_next (by omega)
  refine ⟨by rw [hwr]; exact ⟨Nat.le_add_left 1 _, hnext⟩, Memory.lookup_write_same _ _ _, fun k hk => ?_⟩
  apply Memory.lookup_write_isSome
  rcases Nat.lt_succ_iff_lt_or_eq.mp (hwr ▸ hk) with hk | rfl
  · exact Memory.lookup_write_isSome (hwritten k hk)
  · simp

/-- After both end tests a cycle that goes on has room and time left (R172, R177). -/
theorem lineOk_endCycle {s : State} (h : LineHeld s) (hidle : s.buf.idle.toNat ≤ s.par.tIdle) :
    LineOk (endCycle s) := by
  obtain ⟨-, e⟩ | ⟨hgoes, e⟩ := endCycle_cases s <;> rw [e]
  · exact (onlyScan_handOff s).lineOk_of_ne_laAcc h nofun
  · have hcursor := h.cursor
    simp only [cycleEnds, Bool.or_eq_false_iff, decide_eq_false_iff_not] at hgoes
    exact h.lineOk fun _ => by omega

theorem classifyLine_fg (s : State) :
    (classifyLine s).fg = .srEnd ∨ (classifyLine s).fg = .srRead ∨ (classifyLine s).fg = .srParse := by
  unfold classifyLine; dsimp only; repeat' split
  all_goals simp

theorem readByte_fg (s : State) : (readByte s).fg = .srStart ∨ (readByte s).fg = s.fg := by
  unfold readByte; dsimp only; repeat' split
  all_goals simp

theorem parseStep_fg (s : State) : (parseStep s).fg = .srStart ∨ (parseStep s).fg = s.fg := by
  unfold parseStep; dsimp only; repeat' split
  · exact .inl rfl
  · exact .inl rfl
  · exact .inr rfl

theorem SequencerMove.keeps_line {s t : State} (h : SequencerMove s t) (hsizes : s.par.sizesOk = true) (hs : LineOk s) :
    LineOk t := by
  obtain ⟨-, hcap, htIdle, htIdleMax, -, -, hwidth⟩ := Config.sizesOk_iff.mp hsizes
  cases h with
  | beginLine b =>
    obtain ⟨hcursor, hsentinel, hwritten⟩ :=
      lineHeld_stored (s := s) (at_ := 0#16) b (Nat.le_of_succ_le hcap) (by omega) nofun
    exact LineHeld.lineOk ⟨hcursor, hsentinel, hwritten⟩ fun _ => ⟨hcap, htIdle⟩
  | growLine b hfg =>
    have hheld := lineHeld_stored b (hs.accumulating hfg).1 (by omega) (hs.written (by simp [hfg]))
    exact lineOk_endCycle hheld (Nat.zero_le _)
  | countPoll hfg =>
    obtain ⟨hcursor, hsentinel, hwritten⟩ := hs.held (by simp [hfg])
    have hidle := (hs.accumulating hfg).2
    refine lineOk_endCycle ⟨hcursor, hsentinel, hwritten⟩ ?_
    show (s.buf.idle + 1#16).toNat ≤ s.par.tIdle
    rw [toNat_next (by omega)]
    exact hidle
  | classify hfg =>
    refine (onlyScan_classifyLine s).lineOk_of_ne_laAcc (hs.held (by simp [hfg])) ?_
    obtain h | h | h := classifyLine_fg s <;> simp [h]
  | read hfg =>
    refine (onlyScan_readByte s).lineOk_of_ne_laAcc (hs.held (by simp [hfg])) ?_
    obtain h | h := readByte_fg s <;> simp [h, hfg]
  | parse hfg =>
    refine (onlyScan_parseStep s).lineOk_of_ne_laAcc (hs.held (by simp [hfg])) ?_
    obtain h | h := parseStep_fg s <;> simp [h, hfg]
  | endPass => exact ⟨nofun, fun h => absurd rfl h, fun h => absurd rfl h, fun h => absurd rfl h⟩
  | dropEmitted => exact ⟨hs.accumulating, hs.cursor, hs.sentinel, hs.written⟩
/-! ### The scan -/

/-- In the rewriter's states the queue and the start of the sequencer ask for nothing more. -/
theorem scanOk_of_inRewriter {s : State} (hinit : s.inited = true) (hfg : s.fg.inRewriter = true)
    (hpos : s.scan.pos.toNat + 1 ≤ s.par.lineCap + s.par.skip)
    (hscanning : s.fg = .srRead ∨ s.fg = .srParse → s.scan.pos.toNat + 1 ≤ s.par.lineCap)
    (hfield : s.fg = .srParse → s.scan.field.toNat ≤ s.scan.pos.toNat) (hqueue : s.scan.emitq.length ≤ 4) : ScanOk s :=
  ⟨hpos, hscanning, hfield, hqueue, fun h => by simp [hfg] at h, fun h => by simp [hinit] at h⟩

/-- With an empty queue, the line assembler's states ask for the cursor only. -/
theorem scanOk_of_not_inRewriter {s : State} (hinit : s.inited = true) (hfg : s.fg.inRewriter = false)
    (hpos : s.scan.pos.toNat + 1 ≤ s.par.lineCap + s.par.skip) (hqueue : s.scan.emitq = []) : ScanOk s := by
  refine ⟨hpos, fun h => ?_, fun h => ?_, by simp [hqueue], fun _ => hqueue, fun h => by simp [hinit] at h⟩
  · obtain h | h := h <;> simp [h, FgState.inRewriter] at hfg
  · simp [h, FgState.inRewriter] at hfg

section
variable {s : State} (hinit : s.inited = true) (hs : ScanOk s)
include hinit hs

theorem scanOk_endCycle (hcap : 1 ≤ s.par.lineCap) (hqueue : s.scan.emitq = []) : ScanOk (endCycle s) := by
  obtain ⟨-, e⟩ | ⟨-, e⟩ := endCycle_cases s <;> rw [e]
  · refine scanOk_of_inRewriter hinit rfl ?_ nofun nofun ?_
    · exact hcap.trans (Nat.le_add_right _ _)
    · simp [handOff, hqueue]
  · exact hs

/-- A line that is scanned has its first byte below the boundary (R182). -/
theorem scanOk_classifyLine : ScanOk (classifyLine s) := by
  unfold classifyLine
  dsimp only
  split
  · exact scanOk_of_inRewriter hinit rfl hs.pos_le nofun nofun hs.queue_le
  next hnotEnd =>
    have hpos := (atEnd_eq_false hnotEnd).le
    split
    · exact scanOk_of_inRewriter hinit rfl hs.pos_le (fun _ => hpos) nofun hs.queue_le
    · split
      · exact scanOk_of_inRewriter hinit rfl hs.pos_le (fun _ => hpos) (fun _ => Nat.zero_le _) hs.queue_le
      · exact scanOk_of_inRewriter hinit rfl hs.pos_le (fun _ => hpos) nofun hs.queue_le

/-- The byte after one that is not at the end is within the line (R183). -/
theorem scanOk_readByte (hcap : s.par.lineCap ≤ 65536) (hfg : s.fg = .srRead) (hqueue : s.scan.emitq = []) :
    ScanOk (readByte s) := by
  unfold readByte
  dsimp only
  split
  · exact scanOk_of_inRewriter hinit rfl hs.pos_le nofun nofun hs.queue_le
  next hnotEnd =>
    have hpos := atEnd_eq_false hnotEnd
    have hnext : (s.scan.pos + 1#16).toNat + 1 ≤ s.par.lineCap := by rw [toNat_next (by omega)]; exact hpos
    refine scanOk_of_inRewriter hinit ?_ (hnext.trans (Nat.le_add_right _ _)) (fun _ => hnext) ?_ ?_
    · simp only [State.withFg_fg]; split <;> simp [hfg, FgState.inRewriter]
    · simp only [State.withFg_fg]; split <;> simp [hfg]
    · simp only [State.withFg_scan, State.withScan_scan]; split <;> simp [hqueue]

omit hs in
/-- Within the line the skip neither wraps the cursor nor leads beyond `N - 1 + SKIP` (R44, R185). -/
theorem scanOk_finishRewrite (hwidth : s.par.lineCap + s.par.skip ≤ 65536)
    (hpos : s.scan.pos.toNat + 1 ≤ s.par.lineCap) (hqueue : s.scan.emitq.length ≤ 1) : ScanOk (finishRewrite s) := by
  refine scanOk_of_inRewriter hinit rfl ?_ nofun nofun ?_
  · show (s.scan.pos + BitVec.ofNat 16 s.par.skip).toNat + 1 ≤ s.par.lineCap + s.par.skip
    rw [BitVec.toNat_add, BitVec.toNat_ofNat]
    omega
  · simpa [finishRewrite, trailer] using hqueue

/-- A comma advances the field index, and every byte the cursor, so the index stays behind it (R44, R184). -/
theorem scanOk_parseByte (c : Byte) (hfg : s.fg = .srParse) (hcap : s.par.lineCap ≤ 65536)
    (hpos : s.scan.pos.toNat + 1 < s.par.lineCap) : ScanOk (parseByte s c) := by
  have hfield := hs.field_le hfg
  have hpos' : (parseByte s c).scan.pos.toNat = s.scan.pos.toNat + 1 := toNat_next (by omega)
  have hnext : (parseByte s c).scan.pos.toNat + 1 ≤ s.par.lineCap := by rw [hpos']; exact hpos
  refine scanOk_of_inRewriter hinit (by simp [parseByte, hfg, FgState.inRewriter]) (hnext.trans (Nat.le_add_right _ _))
    (fun _ => hnext) (fun _ => ?_) ?_
  · rw [hpos']
    show (if c = chComma then s.scan.field + 1#16 else s.scan.field).toNat ≤ _
    split
    · rw [toNat_next (by omega)]; omega
    · omega
  · simp only [parseByte, State.withScan_scan]
    generalize padAt s _ _ = pad
    cases pad <;> simp

theorem scanOk_parseStep (hwidth : s.par.lineCap + s.par.skip ≤ 65536) (hfg : s.fg = .srParse)
    (hqueue : s.scan.emitq = []) : ScanOk (parseStep s) := by
  unfold parseStep
  dsimp only
  split
  · exact scanOk_finishRewrite hinit hwidth (hs.scanning (.inr hfg)) (by simp [hqueue])
  next hnotEnd =>
    have hpos := atEnd_eq_false hnotEnd
    split
    · refine scanOk_finishRewrite (s := passStar s) hinit hwidth ?_ ?_
      · show (s.scan.pos + 1#16).toNat + 1 ≤ s.par.lineCap
        rw [toNat_next (by omega)]
        exact hpos
      · simp only [passStar, State.withScan_scan]; split <;> simp [hqueue]
    · exact scanOk_parseByte hinit hs _ hfg (by omega) hpos

end

theorem SequencerMove.keeps_scan {s t : State} (h : SequencerMove s t) (hsizes : s.par.sizesOk = true)
    (hinit : s.inited = true) (hs : ScanOk s) : ScanOk t := by
  obtain ⟨-, hcap, -, -, -, -, hwidth⟩ := Config.sizesOk_iff.mp hsizes
  cases h with
  | beginLine _ _ hqueue => exact scanOk_of_not_inRewriter hinit rfl hs.pos_le hqueue
  | growLine b _ hqueue =>
    have hstored : ScanOk (stored s s.buf.wr b) :=
      ⟨hs.pos_le, hs.scanning, hs.field_le, hs.queue_le, hs.queue_nil, hs.started⟩
    exact scanOk_endCycle hinit hstored (Nat.one_le_of_lt hcap) hqueue
  | countPoll _ hqueue =>
    have hcounted : ScanOk (countIdle s) :=
      ⟨hs.pos_le, hs.scanning, hs.field_le, hs.queue_le, hs.queue_nil, hs.started⟩
    exact scanOk_endCycle hinit hcounted (Nat.one_le_of_lt hcap) hqueue
  | classify => exact scanOk_classifyLine hinit hs
  | read hfg hqueue => exact scanOk_readByte hinit hs (by omega) hfg hqueue
  | parse hfg hqueue => exact scanOk_parseStep hinit hs hwidth hfg hqueue
  | endPass _ hqueue => exact scanOk_of_not_inRewriter hinit rfl hs.pos_le hqueue
  | dropEmitted hfg =>
    refine scanOk_of_inRewriter hinit hfg hs.pos_le hs.scanning hs.field_le ?_
    exact s.scan.emitq.tail_sublist.length_le.trans hs.queue_le

/-! ### The invariant -/

theorem Move.keeps_line {s t : State} (h : Move s t) (hsizes : s.par.sizesOk = true) (hs : LineOk s) : LineOk t := by
  cases h with
  | sequencer _ h => exact h.keeps_line hsizes hs
  | _ => exact ⟨hs.accumulating, hs.cursor, hs.sentinel, hs.written⟩

theorem Move.keeps_scan {s t : State} (h : Move s t) (hsizes : s.par.sizesOk = true) (hs : ScanOk s) : ScanOk t := by
  cases h with
  | initialise => exact ⟨hs.pos_le, hs.scanning, hs.field_le, hs.queue_le, hs.queue_nil, nofun⟩
  | sequencer hinit h => exact h.keeps_scan hsizes hinit hs
  | _ => exact ⟨hs.pos_le, hs.scanning, hs.field_le, hs.queue_le, hs.queue_nil, hs.started⟩

theorem Move.keeps_inv {s t : State} (h : Move s t) (hs : Inv s) : Inv t where
  sizes := by rw [h.par_eq]; exact hs.sizes
  memories := h.keeps_memories hs.memories
  ring := h.keeps_ring hs.ring
  transmitter := h.keeps_transmitter hs.transmitter
  receiver := h.keeps_receiver hs.receiver
  line := h.keeps_line hs.sizes hs.line
  scan := h.keeps_scan hs.sizes hs.scan

theorem Moves.inv {s t : State} (h : Moves s t) (hs : Inv s) : Inv t := h.keep Move.keeps_inv hs

end Sys2Proof.Machine

namespace Sys2Proof.Proofs

open Sys2Proof.Machine

/-- Settles O50: a step is a chain of moves, and every move keeps each part of the invariant. -/
theorem stepKeepsTheInvariant : Obligations.StepKeepsTheInvariant := by
  unfold Obligations.StepKeepsTheInvariant
  exact fun s t hs h => (Moves.of_step h).inv hs

/-- Settles O51: the reference sizes are within R8's bounds. -/
theorem resetMeetsTheInvariant : Obligations.ResetMeetsTheInvariant := by
  unfold Obligations.ResetMeetsTheInvariant
  have hreference : Config.reference.sizesOk = true := by decide
  exact ⟨inv_powerOn hreference, fun c => inv_powerOn⟩

/-- Settles O7: the fields of `State.powerOn`, read one by one. -/
theorem resetValues : Obligations.ResetValues := by
  unfold Obligations.ResetValues
  exact ⟨rfl, fun c => by simp [State.powerOn]⟩

end Sys2Proof.Proofs
end

section
/-! PROOFS. The ring as a queue of its occupied window (10_state R58; 40_ringbuffer R131, R132), and the bytes of a
cycle as the bytes taken from it (10_state R38; 44_line_assembler R175). -/

namespace Sys2Proof.Machine

/-! ### The window -/

theorem ringWindow_eq_nil_iff {s : State} : ringWindow s = [] ↔ s.ring.count = 0 := by simp [ringWindow]

/-- The slot at the tail is in no position of a window that has room. -/
theorem RingOk.slot_ne_tail {s : State} (h : RingOk s) (hroom : s.ring.count < s.par.ringCap) {k : Nat}
    (hk : k < s.ring.count) : (s.ring.head + k) % s.par.ringCap ≠ s.ring.tail := by
  intro e
  have hmod : s.ring.head + k ≡ s.ring.head + s.ring.count [MOD s.par.ringCap] := e.trans h.tail_eq
  exact hk.ne (Nat.ModEq.eq_of_lt_of_lt (Nat.ModEq.add_left_cancel' _ hmod) (hk.trans hroom) hroom)

/-- A byte that is put stands at the end of the window. -/
theorem ringWindow_put {s : State} (h : RingOk s) (hroom : s.ring.count < s.par.ringCap) (b : Byte) :
    ringWindow (s.withRing (s.ring.put s.par b)) = ringWindow s ++ [b] := by
  have hold : ∀ k < s.ring.count, rbRead (s.withRing (s.ring.put s.par b)) ((s.ring.head + k) % s.par.ringCap) =
      rbRead s ((s.ring.head + k) % s.par.ringCap) :=
    fun k hk => Memory.read_write_other _ _ _ (h.slot_ne_tail hroom hk)
  have hnew : rbRead (s.withRing (s.ring.put s.par b)) ((s.ring.head + s.ring.count) % s.par.ringCap) = b := by
    rw [← h.tail_eq]; exact Memory.read_write_same _ _ _ _
  show (List.range (s.ring.count + 1)).map _ = _
  rw [List.range_succ, List.map_append]
  exact congrArg₂ _ (List.map_congr_left fun k hk => hold k (List.mem_range.mp hk)) (congrArg (fun x => [x]) hnew)

/-- The byte at the head is the first of the window, and dropping it leaves the rest. -/
theorem ringWindow_eq_cons {s : State} (h : RingOk s) (hcount : s.ring.count ≠ 0) :
    ringWindow s = rbRead s s.ring.head :: ringWindow (s.withRing (s.ring.drop s.par)) := by
  obtain ⟨n, hn⟩ := Nat.exists_eq_succ_of_ne_zero hcount
  have hrest : (s.ring.drop s.par).count = n := by simp [Ring.drop, hn]
  have hslot (k : Nat) : ((s.ring.drop s.par).head + k) % s.par.ringCap = (s.ring.head + (k + 1)) % s.par.ringCap := by
    show ((s.ring.head + 1) % s.par.ringCap + k) % s.par.ringCap = _
    rw [Nat.mod_add_mod, Nat.add_right_comm, Nat.add_assoc]
  have hread (x : Nat) : rbRead (s.withRing (s.ring.drop s.par)) x = rbRead s x := rfl
  simp only [ringWindow, State.withRing_ring, State.withRing_par, hrest, hread, hslot, hn, List.range_succ_eq_map,
    List.map_cons, List.map_map, Nat.add_zero, Nat.mod_eq_of_lt h.head_lt]
  rfl

/-! ### ENQ and DEQ -/

theorem exec_enq_of_room {s : State} (b : Byte) (hcount : s.ring.count ≠ s.par.ringCap)
    (htail : s.ring.tail < s.par.ringCap) :
    exec (.enq b) s = .next ((s.withRing (s.ring.put s.par b)).withOut (.bool true)) :=
  execEnq_next.mpr ⟨_, _, enqueue_ok.mpr (.inr ⟨hcount, htail, rfl, rfl⟩), rfl⟩

theorem exec_enq_of_full {s : State} (b : Byte) (hcount : s.ring.count = s.par.ringCap) :
    exec (.enq b) s = .next (s.withOut (.bool false)) :=
  execEnq_next.mpr ⟨_, _, enqueue_ok.mpr (.inl ⟨hcount, rfl, rfl⟩), rfl⟩

theorem exec_deq_of_nonempty {s : State} (hcount : s.ring.count ≠ 0) (hhead : s.ring.head < s.par.ringCap) :
    exec .deq s =
      .next ((s.withRing (s.ring.drop s.par)).withOut (.byte (some (rbRead s s.ring.head)))) :=
  execDeq_next.mpr ⟨_, _, dequeue_ok.mpr (.inr ⟨hcount, hhead, rfl, rfl⟩), rfl⟩

theorem exec_deq_of_empty {s : State} (hcount : s.ring.count = 0) : exec .deq s = .next (s.withOut (.byte none)) :=
  execDeq_next.mpr ⟨_, _, dequeue_ok.mpr (.inl ⟨hcount, rfl, rfl⟩), rfl⟩

theorem Moves.ringOk {s t : State} (h : Moves s t) (hs : RingOk s) : RingOk t := h.keep Move.keeps_ring hs

/-- What a poll returns is the first byte of the window, if there is one. -/
theorem head?_ringWindow_of_dequeue {s t : State} {r : Option Byte} (h : RingOk s) (hpoll : dequeue s = .ok (r, t)) :
    (ringWindow s).head? = r := by
  obtain ⟨hcount, rfl, -⟩ | ⟨hcount, -, rfl, -⟩ := dequeue_ok.mp hpoll
  · rw [ringWindow_eq_nil_iff.mpr hcount]; rfl
  · rw [ringWindow_eq_cons h hcount]; rfl

/-! ### The bytes of a cycle -/

theorem lineBytes_of_buf_eq {s t : State} (h : t.buf = s.buf) : lineBytes t = lineBytes s := by
  unfold lineBytes lbRead; rw [h]

/-- The bytes below the cursor stand, and the stored byte follows them; the sentinel lies beyond. -/
theorem lineBytes_stored {s : State} {at_ : Word} (b : Byte) (hwidth : at_.toNat + 1 < 65536) :
    lineBytes (stored s at_ b) = (List.range at_.toNat).map (lbRead s) ++ [b] := by
  have hread : ∀ k ≤ at_.toNat, lbRead (stored s at_ b) k =
      Memory.read Config.powerOnLB (Memory.write s.buf.cells at_.toNat b) k := by
    intro k hk
    refine Memory.read_write_other _ _ _ ?_
    rw [toNat_next hwidth]; omega
  have hold : ∀ k ∈ List.range at_.toNat, lbRead (stored s at_ b) k = lbRead s k := by
    intro k hk
    have hlt := List.mem_range.mp hk
    rw [hread k hlt.le]
    exact Memory.read_write_other _ _ _ hlt.ne
  have hnew : lbRead (stored s at_ b) at_.toNat = b := by
    rw [hread _ le_rfl]; exact Memory.read_write_same _ _ _ _
  show (List.range (at_ + 1#16).toNat).map _ = _
  rw [toNat_next hwidth, List.range_succ, List.map_append, List.map_congr_left hold, List.map_singleton, hnew]

end Sys2Proof.Machine

namespace Sys2Proof.Proofs

open Sys2Proof.Machine

/-- Settles O25: the window under `Ring.put` and `Ring.drop`; `RingOk` because both operations are moves. -/
theorem ringIsAQueue : Obligations.RingIsAQueue := by
  unfold Obligations.RingIsAQueue
  intro s hs
  refine ⟨fun b hroom => ?_, fun b hfull => ?_, fun b rest hwindow => ?_, fun hempty => ?_⟩
  · have h := exec_enq_of_room b hroom.ne hs.tail_lt
    exact ⟨_, h, rfl, ringWindow_put hs hroom b, (Moves.of_exec h).ringOk hs⟩
  · have h := exec_enq_of_full b hfull
    exact ⟨_, h, rfl, rfl, (Moves.of_exec h).ringOk hs⟩
  · have hcount : s.ring.count ≠ 0 := fun h0 => by simp [ringWindow_eq_nil_iff.mpr h0] at hwindow
    rw [ringWindow_eq_cons hs hcount] at hwindow
    obtain ⟨rfl, rfl⟩ := List.cons.inj hwindow
    have h := exec_deq_of_nonempty hcount hs.head_lt
    exact ⟨_, h, rfl, rfl, (Moves.of_exec h).ringOk hs⟩
  · have h := exec_deq_of_empty (ringWindow_eq_nil_iff.mp hempty)
    exact ⟨_, h, rfl, hempty, (Moves.of_exec h).ringOk hs⟩

/-- Settles O29: what is stored is what the poll took off the head of the window, and a poll without a byte stores
nothing. -/
theorem lineHoldsTheDequeuedBytes : Obligations.LineHoldsTheDequeuedBytes := by
  unfold Obligations.LineHoldsTheDequeuedBytes
  intro s t hs
  constructor
  · intro h hacc hidle
    obtain ⟨-, ⟨-, rfl⟩ | ⟨-, r, u, hpoll, h⟩⟩ := execLaidle_next.mp h
    · simp [hidle] at hacc
    have hhead := head?_ringWindow_of_dequeue hs.ring hpoll
    obtain ⟨-, rfl⟩ | ⟨b, v, rfl, hstore, rfl⟩ := h
    · rw [dequeue_eq_withRing hpoll] at hacc
      simp [hidle] at hacc
    · obtain ⟨-, -, rfl⟩ := storeByte_ok.mp hstore
      exact ⟨b, hhead, lineBytes_stored b (at_ := 0#16) (by decide)⟩
  · intro h hacc
    have hattached : attachedOp s = some .laacc :=
      attachedOp_eq.mpr (.inl ⟨hs.scan.queue_nil (by simp [hacc, FgState.inRewriter]), by rw [hacc]; rfl⟩)
    obtain ⟨-, ⟨hother, -⟩ | ⟨-, r, u, hpoll, h⟩⟩ := execLaacc_next.mp h
    · exact absurd hattached hother
    have hhead := head?_ringWindow_of_dequeue hs.ring hpoll
    have hbuf : u.buf = s.buf := by rw [dequeue_eq_withRing hpoll]; rfl
    obtain ⟨rfl, rfl⟩ | ⟨b, v, rfl, hstore, rfl⟩ := h
    · refine ⟨fun _ => ?_, fun b rest hwindow => by simp [hwindow] at hhead⟩
      calc lineBytes ((endCycle (countIdle u)).withOut .unit)
          = lineBytes (countIdle u) := lineBytes_of_buf_eq (onlyScan_endCycle _).buf_eq
        _ = lineBytes u := rfl
        _ = lineBytes s := lineBytes_of_buf_eq hbuf
    · obtain ⟨-, -, rfl⟩ := storeByte_ok.mp hstore
      refine ⟨fun hempty => by simp [hempty] at hhead, fun c rest hwindow => ?_⟩
      obtain rfl : c = b := by simpa [hwindow] using hhead
      have hwidth : u.buf.wr.toNat + 1 < 65536 := by
        have hroom := (hs.line.accumulating hacc).1
        obtain ⟨-, -, -, -, -, -, hcap⟩ := Config.sizesOk_iff.mp hs.sizes
        rw [hbuf]; omega
      calc lineBytes ((endCycle (stored u u.buf.wr c)).withOut .unit)
          = lineBytes (stored u u.buf.wr c) := lineBytes_of_buf_eq (onlyScan_endCycle _).buf_eq
        _ = lineBytes u ++ [c] := lineBytes_stored c hwidth
        _ = lineBytes s ++ [c] := by rw [lineBytes_of_buf_eq hbuf]

end Sys2Proof.Proofs
end

section
/-! PROOFS. Who writes the LineBuffer: LAIDLE and LAACC where they are attached, and nothing else (20_memory R86;
44_line_assembler R173). -/

namespace Sys2Proof.Machine

/-! ### Operations that leave the LineBuffer -/

theorem buf_eq_of_enqueue {s t : State} {b : Byte} {ok : Bool} (h : enqueue s b = .ok (ok, t)) : t.buf = s.buf := by
  rw [enqueue_eq_withRing h]; rfl

theorem buf_eq_of_dequeue {s t : State} {r : Option Byte} (h : dequeue s = .ok (r, t)) : t.buf = s.buf := by
  rw [dequeue_eq_withRing h]; rfl

/-- An operation that changes at most the scan and the control state where it is attached, and holds elsewhere. -/
theorem OnlyScan.buf_eq_of_attached {s t u : State} {i : Instr} (hu : OnlyScan s u)
    (h : s.inited = true ∧ ((attachedOp s = some i ∧ u.withOut .unit = t) ∨
      (attachedOp s ≠ some i ∧ s.withOut .held = t))) : t.buf = s.buf := by
  obtain ⟨-, ⟨-, rfl⟩ | ⟨-, rfl⟩⟩ := h
  · exact hu.buf_eq
  · rfl

/-- Only the LineAssembler's operations write the LineBuffer. -/
theorem buf_eq_of_exec {i : Instr} {s t : State} (h : exec i s = .next t) (hlaidle : i ≠ .laidle)
    (hlaacc : i ≠ .laacc) : t.buf = s.buf := by
  cases i with
  | init => obtain ⟨-, rfl⟩ := execInit_next.mp h; rfl
  | setbaud => obtain ⟨-, rfl⟩ := execSetbaud_next.mp h; rfl
  | txbyte => obtain ⟨-, -, ⟨-, rfl⟩ | ⟨-, rfl⟩⟩ := execTxbyte_next.mp h <;> rfl
  | rxpoll => obtain ⟨-, r, u, hpoll, rfl⟩ := execRxpoll_next.mp h; exact (buf_eq_of_dequeue hpoll :)
  | txtick => obtain ⟨-, rfl⟩ | ⟨-, rfl⟩ := execTxtick_next.mp h <;> rfl
  | rxtick =>
    obtain ⟨-, rfl⟩ | ⟨-, -, -, rfl⟩ | ⟨-, -, -, ok, u, hput, rfl⟩ := execRxtick_next.mp h
    · rfl
    · rfl
    · exact (buf_eq_of_enqueue hput :)
  | edge => obtain ⟨-, rfl⟩ | ⟨-, -, rfl⟩ := execEdge_next.mp h <;> rfl
  | line => obtain ⟨-, rfl⟩ | ⟨-, -, rfl⟩ := execLine_next.mp h <;> rfl
  | enq => obtain ⟨ok, u, hput, rfl⟩ := execEnq_next.mp h; exact (buf_eq_of_enqueue hput :)
  | deq => obtain ⟨r, u, hpoll, rfl⟩ := execDeq_next.mp h; exact (buf_eq_of_dequeue hpoll :)
  | isempty => obtain rfl := execIsempty_next.mp h; rfl
  | begintx => obtain ⟨-, -, -, rfl⟩ := execBegintx_next.mp h; rfl
  | laidle => exact absurd rfl hlaidle
  | laacc => exact absurd rfl hlaacc
  | srstart => exact (onlyScan_classifyLine s).buf_eq_of_attached (execSrstart_next.mp h)
  | srread => exact (onlyScan_readByte s).buf_eq_of_attached (execSrread_next.mp h)
  | srparse => exact (onlyScan_parseStep s).buf_eq_of_attached (execSrparse_next.mp h)
  | srend => exact OnlyScan.buf_eq_of_attached (u := s.withFg .laIdle) rfl (execSrend_next.mp h)
  | sremit => obtain ⟨-, ⟨-, -, -, rfl⟩ | ⟨-, -, -, rfl⟩ | ⟨-, rfl⟩⟩ := execSremit_next.mp h <;> rfl

/-! ### The LineAssembler during a pass -/

/-- The operation of a control state outside the rewriter is not attached during a pass (R112). -/
theorem attachedOp_ne_of_inRewriter {s : State} {f : FgState} (hpass : s.fg.inRewriter = true)
    (hf : f.inRewriter = false) : attachedOp s ≠ some f.operation := by
  intro h
  obtain ⟨rfl, -⟩ := fg_of_attachedOp h
  exact Bool.false_ne_true (hf.symm.trans hpass)

theorem laidle_holds_of_inRewriter {s t : State} (hpass : s.fg.inRewriter = true) (h : exec .laidle s = .next t) :
    t = s.withOut .held := by
  obtain ⟨-, ⟨-, rfl⟩ | ⟨hop, -⟩⟩ := execLaidle_next.mp h
  · rfl
  · exact absurd hop (attachedOp_ne_of_inRewriter (f := .laIdle) hpass rfl)

theorem laacc_holds_of_inRewriter {s t : State} (hpass : s.fg.inRewriter = true) (h : exec .laacc s = .next t) :
    t = s.withOut .held := by
  obtain ⟨-, ⟨-, rfl⟩ | ⟨hop, -⟩⟩ := execLaacc_next.mp h
  · rfl
  · exact absurd hop (attachedOp_ne_of_inRewriter (f := .laAcc) hpass rfl)

end Sys2Proof.Machine

namespace Sys2Proof.Proofs

open Sys2Proof.Machine

/-- Settles O45: the two operations that write the LineBuffer hold during a pass. -/
theorem lineBufferFrozenDuringAPass : Obligations.LineBufferFrozenDuringAPass := by
  unfold Obligations.LineBufferFrozenDuringAPass
  intro i s t hpass h
  by_cases hlaidle : i = .laidle
  · subst hlaidle
    rw [laidle_holds_of_inRewriter hpass h, State.withOut_buf]
  by_cases hlaacc : i = .laacc
  · subst hlaacc
    rw [laacc_holds_of_inRewriter hpass h, State.withOut_buf]
  exact buf_eq_of_exec h hlaidle hlaacc

end Sys2Proof.Proofs
end

section
/-! PROOFS. The operation word (spec 30_encoding R104 to R106, R108, R110): decoding and encoding are inverse to each
other on the well-formed operations, the decodable words are those of the opcode table's rows, and every other word is
refused. -/

namespace Sys2Proof

/-! ### The fields of a built word -/

section
variable {o a b : Nat} (ho : o < 256) (ha : a < 65536) (hb : b < 65536)
include ho ha hb

theorem opcodeField_opWord : (opcodeField (opWord o a b)).toNat = o := by
  rw [opcodeField_toNat, opWord_toNat ho ha hb]
  omega

theorem fieldA_opWord : (fieldA (opWord o a b)).toNat = a := by
  rw [fieldA_toNat, opWord_toNat ho ha hb]
  omega

theorem fieldB_opWord : (fieldB (opWord o a b)).toNat = b := by
  rw [fieldB_toNat, opWord_toNat ho ha hb]
  omega

end

/-! ### What a word of each format spells (R105) -/

/-- A word whose opcode is `o`, spelled by its fields. -/
theorem opWord_of_opcode {w : OpWord} {o a b : Nat} (ho : (opcodeField w).toNat = o) (ha : (fieldA w).toNat = a)
    (hb : (fieldB w).toNat = b) : opWord o a b = w := by
  rw [← ho, ← ha, ← hb, ← opWord_of_fields]

section
variable {w : OpWord} {o : Nat} (ho : (opcodeField w).toNat = o) {j : Instr}
include ho

theorem opWord_of_decodeN {i : Instr} (h : decodeN w i = .ok j) : i = j ∧ opWord o 0 0 = w := by
  obtain ⟨ha, hb, hj⟩ := decodeN_ok.mp h
  exact ⟨hj, opWord_of_opcode ho (by rw [ha]; rfl) (by rw [hb]; rfl)⟩

theorem opWord_of_decodeB {f : Byte → Instr} (h : decodeB w f = .ok j) :
    ∃ b : Byte, f b = j ∧ opWord o 0 b.toNat = w := by
  obtain ⟨ha, hb, hj⟩ := decodeB_ok.mp h
  refine ⟨_, hj, opWord_of_opcode ho (by rw [ha]; rfl) ?_⟩
  rw [BitVec.toNat_setWidth, Nat.mod_eq_of_lt hb]

theorem opWord_of_decodeF {f : Bool → Instr} (h : decodeF w f = .ok j) :
    ∃ l : Bool, f l = j ∧ opWord o 0 l.toNat = w := by
  obtain ⟨ha, hb, hj⟩ := decodeF_ok.mp h
  refine ⟨_, hj, opWord_of_opcode ho (by rw [ha]; rfl) ?_⟩
  obtain hb | hb : (fieldB w).toNat = 0 ∨ (fieldB w).toNat = 1 := by omega
  · simp [BitVec.getLsbD, hb]
  · simp [BitVec.getLsbD, hb]

theorem opWord_of_decodeR {f : Nat → Nat → Instr} (h : decodeR w f = .ok j) :
    ∃ a b, a < 65536 ∧ b < 65536 ∧ f a b = j ∧ opWord o a b = w :=
  ⟨_, _, (fieldA w).isLt, (fieldB w).isLt, Except.ok.inj h, opWord_of_opcode ho rfl rfl⟩

end

theorem decodeR_opWord {o a b : Nat} (ho : o < 256) (ha : a < 65536) (hb : b < 65536) (f : Nat → Nat → Instr) :
    decodeR (opWord o a b) f = .ok (f a b) := by
  rw [decodeR, fieldA_opWord ho ha hb, fieldB_opWord ho ha hb]

theorem decodeB_opWord {o : Nat} (ho : o < 256) (b : Byte) (f : Byte → Instr) :
    decodeB (opWord o 0 b.toNat) f = .ok (f b) := by
  have hb := b.isLt
  have hB : (fieldB (opWord o 0 b.toNat)).toNat = b.toNat := fieldB_opWord ho (by omega) (by omega)
  have hA : (fieldA (opWord o 0 b.toNat)).toNat = 0 := fieldA_opWord ho (by omega) (by omega)
  refine decodeB_ok.mpr ⟨BitVec.eq_of_toNat_eq hA, by omega, congrArg f (BitVec.eq_of_toNat_eq ?_)⟩
  rw [BitVec.toNat_setWidth, hB, Nat.mod_eq_of_lt hb]

/-! ### Decoder and encoder -/

@[simp] theorem spellableRate_iff {rate : Nat} : spellableRate rate = true ↔ rate < 65536 := by simp [spellableRate]

theorem decode_encode (i : Instr) (h : i.wf = true) : decode (encode i) = .ok i := by
  cases i with
  | init a b | setbaud a b =>
    obtain ⟨ha, hb⟩ : a < 65536 ∧ b < 65536 := by simpa [Instr.wf] using h
    rw [decode, encode, opcodeField_opWord (by decide) ha hb]
    exact decodeR_opWord (by decide) ha hb _
  | txbyte b | enq b | begintx b =>
    rw [decode, encode, opcodeField_opWord (by decide) (by decide) (b.isLt.trans (by decide))]
    exact decodeB_opWord (by decide) b _
  | line l => cases l <;> rfl
  | _ => rfl

/-- The arms of the decoder by format: R (two rates), B (a byte), F (a flag), no such opcode, and N (no operand). -/
theorem wf_and_encode_of_decode {w : OpWord} {i : Instr} (h : decode w = .ok i) : i.wf = true ∧ encode i = w := by
  unfold decode at h
  split at h
  case h_1 ho | h_2 ho =>
    obtain ⟨a, b, ha, hb, rfl, hw⟩ := opWord_of_decodeR ho h
    exact ⟨by simp [Instr.wf, ha, hb], hw⟩
  case h_3 ho | h_8 ho | h_11 ho =>
    obtain ⟨b, rfl, hw⟩ := opWord_of_decodeB ho h
    exact ⟨rfl, hw⟩
  case h_5 ho | h_7 ho =>
    obtain ⟨l, rfl, hw⟩ := opWord_of_decodeF ho h
    cases l <;> exact ⟨rfl, hw⟩
  case h_19 => exact absurd h (by simp)
  all_goals
    obtain ⟨rfl, hw⟩ := opWord_of_decodeN ‹_› h
    exact ⟨rfl, hw⟩

/-! ### Which words spell an operation (R105, R108) -/

theorem fieldA_eq_zero_iff {w : OpWord} : fieldA w = 0#16 ↔ w.toNat / 2 ^ 16 % 2 ^ 16 = 0 := by
  rw [← BitVec.toNat_inj, fieldA_toNat]
  rfl

theorem fieldB_eq_zero_iff {w : OpWord} : fieldB w = 0#16 ↔ w.toNat % 2 ^ 16 = 0 := by
  rw [← BitVec.toNat_inj, fieldB_toNat]
  rfl

theorem decodeN_accepts {w : OpWord} {i : Instr} : (∃ j, decodeN w i = .ok j) ↔ w.toNat % 2 ^ 32 = 0 := by
  simp only [decodeN_ok, exists_and_left, exists_eq', and_true, fieldA_eq_zero_iff, fieldB_eq_zero_iff]
  omega

theorem decodeB_accepts {w : OpWord} {f : Byte → Instr} :
    (∃ j, decodeB w f = .ok j) ↔ w.toNat % 2 ^ 32 < 2 ^ 8 := by
  simp only [decodeB_ok, exists_and_left, exists_eq', and_true, fieldA_eq_zero_iff, fieldB_toNat]
  omega

theorem decodeF_accepts {w : OpWord} {f : Bool → Instr} : (∃ j, decodeF w f = .ok j) ↔ w.toNat % 2 ^ 32 < 2 := by
  simp only [decodeF_ok, exists_and_left, exists_eq', and_true, fieldA_eq_zero_iff, fieldB_toNat]
  omega

theorem decodeR_accepts {w : OpWord} {f : Nat → Nat → Instr} : ∃ j, decodeR w f = .ok j := ⟨_, rfl⟩

theorem exists_error_iff {r : Except Reject Instr} : (∃ why, r = .error why) ↔ ¬ ∃ i, r = .ok i := by
  cases r <;> simp

/-- A word spells an operation when its opcode is assigned and the must-be-zero bits of the opcode's format are zero. -/
theorem decode_accepts {w : OpWord} :
    (∃ i, decode w = .ok i) ↔ (opcodeField w).toNat ∈ Machine.assignedOpcodes ∧ Machine.mustBeZeroOk w := by
  unfold decode Machine.mustBeZeroOk
  split
  case h_19 => simp_all [Machine.assignedOpcodes]
  all_goals
    rename_i ho
    simp [ho, Machine.assignedOpcodes, decodeN_accepts, decodeB_accepts, decodeF_accepts, decodeR_accepts]

/-! ### The rows of the opcode table (R104, R105) -/

theorem encode_matches_row : ∀ i, Laws.Encoding.Statement i
  | .init a b => Laws.Encoding.init a b
  | .setbaud a b => Laws.Encoding.setbaud a b
  | .txbyte b => Laws.Encoding.txbyte b
  | .rxpoll => Laws.Encoding.rxpoll
  | .txtick => Laws.Encoding.txtick
  | .rxtick => Laws.Encoding.rxtick
  | .edge => Laws.Encoding.edge
  | .line l => Laws.Encoding.line l
  | .enq b => Laws.Encoding.enq b
  | .deq => Laws.Encoding.deq
  | .isempty => Laws.Encoding.isempty
  | .begintx b => Laws.Encoding.begintx b
  | .laidle => Laws.Encoding.laidle
  | .laacc => Laws.Encoding.laacc
  | .srstart => Laws.Encoding.srstart
  | .srread => Laws.Encoding.srread
  | .srparse => Laws.Encoding.srparse
  | .srend => Laws.Encoding.srend
  | .sremit => Laws.Encoding.sremit

/-- Every word of the row spells a well-formed operation with the row's mnemonic. -/
def OpRow.Spelled (r : OpRow) : Prop :=
  ∀ w, r.matches w = true → ∃ i : Instr, i.wf = true ∧ encode i = w ∧ i.mnemonic = r.mnemonic

theorem OpRow.spelled_fixed {p : OpWord} (i : Instr) (hwf : i.wf = true) (hp : encode i = p) :
    OpRow.Spelled ⟨i.mnemonic, 0xFFFFFFFFFF, p⟩ := by
  intro w h
  rw [matches_highMask 0 (by decide), Nat.pow_zero, Nat.div_one, Nat.mul_one, BitVec.toNat_inj] at h
  exact ⟨i, hwf, hp.trans h.symm, rfl⟩

/-- A row that fixes the bits from `k` up: a word of it is the row's opcode over a number below `2 ^ k`. -/
theorem OpRow.eq_opWord_of_matches {name : String} {m p w : OpWord} {o : Nat} (k : Nat)
    (hk : ∀ i < 40, m.getLsbD i = decide (k ≤ i)) (hk16 : k ≤ 16) (ho : o < 256)
    (hp : p.toNat = o * 2 ^ 32) (h : OpRow.matches ⟨name, m, p⟩ w = true) :
    ∃ n < 2 ^ k, w = opWord o 0 n := by
  rw [matches_highMask k hk, hp] at h
  have hn : w.toNat % 2 ^ k < 2 ^ k := Nat.mod_lt _ (Nat.two_pow_pos k)
  have h16 : 2 ^ k ≤ 2 ^ 16 := Nat.pow_le_pow_right (by decide) hk16
  refine ⟨_, hn, BitVec.eq_of_toNat_eq ?_⟩
  rw [opWord_toNat ho (by decide) (by omega), Nat.zero_mul, Nat.add_zero, ← h, Nat.div_add_mod']

theorem OpRow.spelled_byte {name : String} {p : OpWord} (o : Nat) (f : Byte → Instr) (ho : o < 256)
    (hp : p.toNat = o * 2 ^ 32)
    (hf : ∀ b, (f b).wf = true ∧ encode (f b) = opWord o 0 b.toNat ∧ (f b).mnemonic = name) :
    OpRow.Spelled ⟨name, 0xFFFFFFFF00, p⟩ := by
  intro w h
  obtain ⟨n, hn, rfl⟩ := eq_opWord_of_matches 8 (by decide) (by decide) ho hp h
  obtain ⟨hwf, hencode, hname⟩ := hf (BitVec.ofNat 8 n)
  rw [BitVec.toNat_ofNat, Nat.mod_eq_of_lt hn] at hencode
  exact ⟨_, hwf, hencode, hname⟩

theorem OpRow.spelled_line : OpRow.Spelled ⟨"LINE", 0xFFFFFFFFFE, 0x1200000000⟩ := by
  intro w h
  obtain ⟨n, hn, rfl⟩ := eq_opWord_of_matches 1 (by decide) (by decide) (o := 0x12) (by decide) rfl h
  obtain rfl | rfl : n = 0 ∨ n = 1 := by omega
  · exact ⟨.line false, rfl, rfl, rfl⟩
  · exact ⟨.line true, rfl, rfl, rfl⟩

theorem OpRow.spelled_rates {name : String} {p : OpWord} (o : Nat) (f : Nat → Nat → Instr)
    (hp : p.toNat = o * 2 ^ 32)
    (hf : ∀ a b, (f a b).wf = (spellableRate a && spellableRate b) ∧ encode (f a b) = opWord o a b ∧
      (f a b).mnemonic = name) :
    OpRow.Spelled ⟨name, 0xFF00000000, p⟩ := by
  intro w h
  rw [matches_highMask 32 (by decide), ← opcodeField_toNat, hp] at h
  have ho : (opcodeField w).toNat = o := Nat.eq_of_mul_eq_mul_right (by decide) h
  obtain ⟨hwf, hencode, hname⟩ := hf (fieldA w).toNat (fieldB w).toNat
  refine ⟨_, ?_, hencode.trans (opWord_of_opcode ho rfl rfl), hname⟩
  simpa [hwf] using ⟨(fieldA w).isLt, (fieldB w).isLt⟩

theorem OpRow.spelled_of_mem : ∀ r ∈ opcodeTable, r.Spelled := by
  simp only [opcodeTable, List.cons_append, List.nil_append, List.forall_mem_cons]
  exact ⟨spelled_rates 0x01 .init rfl fun _ _ => ⟨rfl, rfl, rfl⟩,
    spelled_rates 0x02 .setbaud rfl fun _ _ => ⟨rfl, rfl, rfl⟩,
    spelled_byte 0x03 .txbyte (by decide) rfl fun _ => ⟨rfl, rfl, rfl⟩,
    spelled_fixed .rxpoll rfl rfl,
    spelled_fixed .txtick rfl rfl,
    spelled_fixed .rxtick rfl rfl,
    spelled_fixed .edge rfl rfl,
    spelled_line,
    spelled_byte 0x20 .enq (by decide) rfl fun _ => ⟨rfl, rfl, rfl⟩,
    spelled_fixed .deq rfl rfl,
    spelled_fixed .isempty rfl rfl,
    spelled_byte 0x23 .begintx (by decide) rfl fun _ => ⟨rfl, rfl, rfl⟩,
    spelled_fixed .laidle rfl rfl,
    spelled_fixed .laacc rfl rfl,
    spelled_fixed .srstart rfl rfl,
    spelled_fixed .srread rfl rfl,
    spelled_fixed .srparse rfl rfl,
    spelled_fixed .srend rfl rfl,
    spelled_fixed .sremit rfl rfl,
    List.forall_mem_nil _⟩

/-- A word of a row decodes to an operation with the row's mnemonic. -/
theorem OpRow.decode_of_matches {r : OpRow} {w : OpWord} (hr : r ∈ opcodeTable) (h : r.matches w = true) :
    ∃ i, decode w = .ok i ∧ i.mnemonic = r.mnemonic := by
  obtain ⟨i, hwf, rfl, hname⟩ := spelled_of_mem r hr w h
  exact ⟨i, decode_encode i hwf, hname⟩

theorem nodup_mnemonics : (opcodeTable.map OpRow.mnemonic).Nodup := by decide

/-- Two rows with a word in common have the mnemonic of the one operation that the word spells. -/
theorem OpRow.eq_of_matches {r r' : OpRow} {w : OpWord} (hr : r ∈ opcodeTable) (hr' : r' ∈ opcodeTable)
    (h : r.matches w = true) (h' : r'.matches w = true) : r = r' := by
  obtain ⟨i, hi, hname⟩ := decode_of_matches hr h
  obtain ⟨i', hi', hname'⟩ := decode_of_matches hr' h'
  obtain rfl : i = i' := Except.ok.inj (hi.symm.trans hi')
  exact List.inj_on_of_nodup_map nodup_mnemonics hr hr' (hname.symm.trans hname')

end Sys2Proof

namespace Sys2Proof.Machine

/-! ### Invalid words and unsupported rates (R108) -/

theorem step_of_decode_error {s : State} {w : OpWord} {rest : List OpWord} {why : Reject} (hsched : s.sched = w :: rest)
    (h : decode w = .error why) : step s = .refused (.invalidWord why) := by
  rw [step_of_sched_cons hsched, runWord, h]

theorem resolveRate_of_not_mem {c : Config} {rate : Nat} (h : rate ∉ c.rateTable.map Prod.fst)
    (previous : Option RateEntry) : resolveRate c rate previous = (previous, false) := by
  have hlookup : c.rateTable.lookup rate = none := by
    rw [List.lookup_eq_none_iff]
    rintro ⟨r, e⟩ hp
    simpa using fun heq => h (List.mem_map.mpr ⟨_, hp, heq.symm⟩)
  rw [resolveRate, hlookup]

end Sys2Proof.Machine

namespace Sys2Proof.Proofs

open Sys2Proof.Machine

/-- Settles O1: each operation's word has the operation's opcode, and its format reads the operands back. -/
theorem decodeOfEncode : Obligations.DecodeOfEncode := by
  unfold Obligations.DecodeOfEncode
  exact decode_encode

/-- Settles O2: the fields that a format accepts are all the bits of the word. -/
theorem encodeOfDecode : Obligations.EncodeOfDecode := by
  unfold Obligations.EncodeOfDecode
  exact fun _ _ => wf_and_encode_of_decode

/-- Settles O3: a decodable word is an encoding, and the table's mnemonics differ. -/
theorem validWordsAreTheTableRows : Obligations.ValidWordsAreTheTableRows := by
  unfold Obligations.ValidWordsAreTheTableRows
  refine fun w => ⟨fun i h => ?_, fun r => OpRow.decode_of_matches, fun r hr r' => OpRow.eq_of_matches hr⟩
  obtain ⟨hwf, rfl⟩ := wf_and_encode_of_decode h
  obtain ⟨r, hr, hname, hmatches⟩ := encode_matches_row i hwf
  exact ⟨r, hr, hmatches, hname⟩

/-- Settles O5: the invalid words by what the formats accept, the legal operands as encodings. -/
theorem invalidWordsAreRefused : Obligations.InvalidWordsAreRefused := by
  unfold Obligations.InvalidWordsAreRefused
  refine ⟨fun w => ?_, fun s w rest why => step_of_decode_error, ⟨rfl, rfl⟩,
    fun a b ha hb => ⟨decode_encode (.init a b) ?_, decode_encode (.setbaud a b) ?_⟩,
    fun b => ⟨decode_encode (.txbyte b) rfl, decode_encode (.enq b) rfl, decode_encode (.begintx b) rfl⟩,
    fun c rate previous h => resolveRate_of_not_mem h previous⟩
  · rw [exists_error_iff, decode_accepts, not_and_or]
  · simp [Instr.wf, ha, hb]
  · simp [Instr.wf, ha, hb]

/-- Settles O4: the decoder runs on each of the 20 words. -/
theorem sampleWordsDecode : Obligations.SampleWordsDecode := by
  unfold Obligations.SampleWordsDecode
  decide

end Sys2Proof.Proofs
end

section
/-! PROOFS. The sequencer operation that a state enables, and that every other one holds (spec 30_encoding R112). -/

namespace Sys2Proof.Machine

theorem sequencerGate_of_not_attached {i : Instr} {s : State} (k : Outcome) (hinit : s.inited = true)
    (h : attachedOp s ≠ some i) : sequencerGate i s k = .next (s.withOut .held) :=
  sequencerGate_next.mpr ⟨hinit, .inr ⟨h, rfl⟩⟩

/-- A sequencer operation that is not attached holds (R112). -/
theorem exec_of_not_attached {s : State} (hinit : s.inited = true) :
    ∀ i ∈ [Instr.laidle, .laacc, .srstart, .srread, .srparse, .srend, .sremit],
      attachedOp s ≠ some i → exec i s = .next (s.withOut .held) := by
  have hold (i : Instr) (k : Outcome) : attachedOp s ≠ some i → sequencerGate i s k = .next (s.withOut .held) :=
    sequencerGate_of_not_attached k hinit
  simp only [List.forall_mem_cons]
  exact ⟨hold _ _, hold _ _, hold _ _, hold _ _, hold _ _, hold _ _, hold _ _, List.forall_mem_nil _⟩

/-- With an empty queue the operation of `fg.state` can step. -/
theorem enabledOp_of_queue_nil {s : State} (h : s.scan.emitq = []) : enabledOp s = some s.fg.operation := by
  rw [enabledOp, attachedOp_eq.mpr (.inl ⟨h, rfl⟩)]
  exact if_neg fun ⟨hop, _⟩ => s.fg.operation_eq_sremit hop

/-- With SREMIT attached the Transmitter decides (R187). -/
theorem enabledOp_of_sremit {s : State} (h : attachedOp s = some .sremit) :
    enabledOp s = if s.tx.busy = true then none else some .sremit := by
  simp [enabledOp, h]

end Sys2Proof.Machine

namespace Sys2Proof.Proofs

open Sys2Proof.Machine

/-- Settles O43: by the queue, which attaches SREMIT or the operation of `fg.state`; the gate holds the others. -/
theorem oneSequencerOperationIsEnabled : Obligations.OneSequencerOperationIsEnabled := by
  unfold Obligations.OneSequencerOperationIsEnabled
  refine fun s => ⟨fun hqueue hpass => ?_, fun hqueue => ?_, fun i hi hinit h => exec_of_not_attached hinit i hi h⟩
  · have hop : attachedOp s = some .sremit := attachedOp_eq.mpr (.inr ⟨hqueue, hpass, rfl⟩)
    have henabled := enabledOp_of_sremit hop
    exact ⟨hop, fun hbusy => henabled.trans (if_pos hbusy), fun hidle => henabled.trans (if_neg (by simp [hidle]))⟩
  · have hfg (f : FgState) (h : s.fg = f) : enabledOp s = some f.operation := h ▸ enabledOp_of_queue_nil hqueue
    exact ⟨hfg .laIdle, hfg .laAcc, hfg .srStart, hfg .srRead, hfg .srParse, hfg .srEnd⟩

end Sys2Proof.Proofs
end

section
/-! PROOFS. The RingBuffer's operations (spec 40_ringbuffer R131 to R134, 43_softuart_facade R165): what each answers,
what it leaves, and what a run of ENQ and DEQ does to the occupied window. -/

namespace Sys2Proof.Machine

/-! ### One operation -/

/-- After INIT the facade's poll is DEQ (R165). -/
theorem exec_rxpoll_eq_exec_deq {s : State} (hinit : s.inited = true) : exec .rxpoll s = exec .deq s :=
  if_pos hinit

theorem count_le_of_enqueue {s t : State} {b : Byte} {ok : Bool} (h : enqueue s b = .ok (ok, t)) :
    s.ring.count ≤ t.ring.count := by
  obtain ⟨-, -, rfl⟩ | ⟨-, -, -, rfl⟩ := enqueue_ok.mp h
  · exact le_rfl
  · exact Nat.le_succ _

/-- An operation that only the event context or the environment issues takes no byte out of the ring (R104, R133). -/
theorem count_le_of_exec_event {i : Instr} {s t : State} (hforeground : Agent.foreground ∉ i.agents)
    (h : exec i s = .next t) : s.ring.count ≤ t.ring.count := by
  cases i with
  | txtick => obtain ⟨-, rfl⟩ | ⟨-, rfl⟩ := execTxtick_next.mp h <;> exact le_rfl
  | rxtick =>
    obtain ⟨-, rfl⟩ | ⟨-, -, -, rfl⟩ | ⟨-, -, -, ok, u, hput, rfl⟩ := execRxtick_next.mp h
    · exact le_rfl
    · exact le_rfl
    · exact (count_le_of_enqueue hput :)
  | edge => obtain ⟨-, rfl⟩ | ⟨-, -, rfl⟩ := execEdge_next.mp h <;> exact le_rfl
  | line => obtain ⟨-, rfl⟩ | ⟨-, -, rfl⟩ := execLine_next.mp h <;> exact le_rfl
  | enq => obtain ⟨ok, u, hput, rfl⟩ := execEnq_next.mp h; exact (count_le_of_enqueue hput :)
  | _ => simp [Instr.agents] at hforeground

/-- The four ring operations touch nothing but the ring and the result. -/
theorem exec_ring_operation_eq {i : Instr} {s t : State}
    (hi : i = .deq ∨ i = .rxpoll ∨ i = .isempty ∨ ∃ b, i = .enq b) (h : exec i s = .next t) :
    ∃ r o, t = (s.withRing r).withOut o := by
  obtain rfl | rfl | rfl | ⟨b, rfl⟩ := hi
  · obtain ⟨r, u, hpoll, rfl⟩ := execDeq_next.mp h
    exact ⟨_, _, congrArg (State.withOut · _) (dequeue_eq_withRing hpoll)⟩
  · obtain ⟨-, r, u, hpoll, rfl⟩ := execRxpoll_next.mp h
    exact ⟨_, _, congrArg (State.withOut · _) (dequeue_eq_withRing hpoll)⟩
  · obtain rfl := execIsempty_next.mp h
    exact ⟨s.ring, _, rfl⟩
  · obtain ⟨ok, u, hput, rfl⟩ := execEnq_next.mp h
    exact ⟨_, _, congrArg (State.withOut · _) (enqueue_eq_withRing hput)⟩

/-- A poll writes neither `rb.tail` nor a slot (R132). -/
theorem producerSide_of_dequeue {s t : State} {r : Option Byte} (h : dequeue s = .ok (r, t)) :
    t.ring.tail = s.ring.tail ∧ ∀ x, rbRead t x = rbRead s x := by
  obtain ⟨-, -, rfl⟩ | ⟨-, -, -, rfl⟩ := dequeue_ok.mp h <;> exact ⟨rfl, fun _ => rfl⟩

/-- An enqueue writes neither `rb.head` nor a slot other than the one at the tail (R131). -/
theorem otherSlots_of_enqueue {s t : State} {b : Byte} {ok : Bool} (h : enqueue s b = .ok (ok, t)) :
    t.ring.head = s.ring.head ∧ ∀ x, x ≠ s.ring.tail → rbRead t x = rbRead s x := by
  obtain ⟨-, -, rfl⟩ | ⟨-, -, -, rfl⟩ := enqueue_ok.mp h
  · exact ⟨rfl, fun _ _ => rfl⟩
  · exact ⟨rfl, fun _ hx => Memory.read_write_other _ _ _ hx⟩

/-! ### Runs of ENQ and DEQ -/

@[simp] theorem length_ringWindow (s : State) : (ringWindow s).length = s.ring.count := by simp [ringWindow]

/-- Of any bytes that follow it, the byte of an ENQ is the first to enter the window: on a full ring none does. -/
theorem exec_enq_window (b : Byte) {s : State} (h : RingOk s) :
    ∃ t, exec (.enq b) s = .next t ∧ t.par = s.par ∧
      ∀ bs, (ringWindow t ++ bs).take s.par.ringCap = (ringWindow s ++ b :: bs).take s.par.ringCap := by
  by_cases hfull : s.ring.count = s.par.ringCap
  · have hlength : (ringWindow s).length = s.par.ringCap := by rw [length_ringWindow, hfull]
    exact ⟨_, exec_enq_of_full b hfull, rfl, fun bs => (List.take_left' hlength).trans (List.take_left' hlength).symm⟩
  · refine ⟨_, exec_enq_of_room b hfull h.tail_lt, rfl, fun bs => ?_⟩
    have hput : ringWindow (s.withRing (s.ring.put s.par b)) = ringWindow s ++ [b] :=
      ringWindow_put h (h.count_le.lt_of_ne hfull) b
    rw [List.append_cons, ← hput]
    rfl

/-- After a run of ENQ the window holds the first `C` of the bytes that stood in it and those handed over (R134). -/
theorem execAll_enqs (bs : List Byte) {s : State} (h : RingOk s) :
    ∃ t, execAll (bs.map .enq) s = .next t ∧ RingOk t ∧ t.par = s.par ∧
      ringWindow t = (ringWindow s ++ bs).take s.par.ringCap := by
  induction bs generalizing s with
  | nil => exact ⟨s, rfl, h, rfl, by simp [List.take_of_length_le, h.count_le]⟩
  | cons b bs ih =>
    obtain ⟨u, hexec, hpar, hfirst⟩ := exec_enq_window b h
    obtain ⟨t, hrun, hok, hpar', hwindow⟩ := ih ((Moves.of_exec hexec).ringOk h)
    rw [hpar] at hpar' hwindow
    exact ⟨t, (execAll_cons_of_next hexec).trans hrun, hok, hpar', hwindow.trans (hfirst bs)⟩

/-- ENQ and DEQ answer, and no byte of the window is lost, doubled or overtaken by one of them. -/
theorem exec_keeps_order {i : Instr} {s : State} (h : RingOk s) (hi : i = .deq ∨ ∃ b, i = .enq b) :
    ∃ t, exec i s = .next t ∧ ringWindow s ++ storedBy i t.out = returnedBy i t.out ++ ringWindow t := by
  obtain rfl | ⟨b, rfl⟩ := hi
  · by_cases hempty : s.ring.count = 0
    · exact ⟨_, exec_deq_of_empty hempty, List.append_nil _⟩
    · exact ⟨_, exec_deq_of_nonempty hempty h.head_lt, (List.append_nil _).trans (ringWindow_eq_cons h hempty)⟩
  · by_cases hfull : s.ring.count = s.par.ringCap
    · exact ⟨_, exec_enq_of_full b hfull, List.append_nil _⟩
    · exact ⟨_, exec_enq_of_room b hfull h.tail_lt, (ringWindow_put h (h.count_le.lt_of_ne hfull) b).symm⟩

theorem acceptedBytes_cons_of_next {i : Instr} {s t : State} (is : List Instr) (h : exec i s = .next t) :
    acceptedBytes (i :: is) s = storedBy i t.out ++ acceptedBytes is t := by simp [acceptedBytes, h]

theorem returnedBytes_cons_of_next {i : Instr} {s t : State} (is : List Instr) (h : exec i s = .next t) :
    returnedBytes (i :: is) s = returnedBy i t.out ++ returnedBytes is t := by simp [returnedBytes, h]

/-- Over a run of ENQ and DEQ what stood in the ring and what was stored is what was returned and what stands there. -/
theorem execAll_keeps_order (is : List Instr) {s : State} (h : RingOk s)
    (his : ∀ i ∈ is, i = .deq ∨ ∃ b, i = .enq b) :
    ∃ t, execAll is s = .next t ∧ ringWindow s ++ acceptedBytes is s = returnedBytes is s ++ ringWindow t := by
  induction is generalizing s with
  | nil => exact ⟨s, rfl, List.append_nil _⟩
  | cons i is ih =>
    obtain ⟨hi, hrest⟩ := List.forall_mem_cons.mp his
    obtain ⟨u, hexec, hfirst⟩ := exec_keeps_order h hi
    obtain ⟨t, hrun, hlast⟩ := ih ((Moves.of_exec hexec).ringOk h) hrest
    refine ⟨t, (execAll_cons_of_next hexec).trans hrun, ?_⟩
    rw [acceptedBytes_cons_of_next is hexec, returnedBytes_cons_of_next is hexec, ← List.append_assoc, hfirst,
      List.append_assoc, hlast, List.append_assoc]

end Sys2Proof.Machine

namespace Sys2Proof.Proofs

open Sys2Proof.Machine

/-- Settles O26: after `k` bytes the window is the first `C` of them (`execAll_enqs`), so its length tells room from
full; the order over ENQ and DEQ by induction on the run. -/
theorem firstBytesSurviveOverflow : Obligations.FirstBytesSurviveOverflow := by
  unfold Obligations.FirstBytesSurviveOverflow
  refine ⟨fun s bs k b hs hcount hb => ?_, fun s is hs his => execAll_keeps_order is hs his⟩
  obtain ⟨hk, rfl⟩ := List.getElem?_eq_some_iff.mp hb
  obtain ⟨t, hrun, hok, hpar, hwindow⟩ := execAll_enqs (bs.take k) hs
  rw [ringWindow_eq_nil_iff.mpr hcount, List.nil_append, List.take_take] at hwindow
  have hlength : t.ring.count = min s.par.ringCap k := by
    rw [← length_ringWindow, hwindow, List.length_take]; omega
  by_cases hroom : k < s.par.ringCap
  · rw [Nat.min_eq_right hroom.le] at hwindow hlength
    have hlt : t.ring.count < t.par.ringCap := by rwa [hlength, hpar]
    refine ⟨t, _, hrun, exec_enq_of_room _ hlt.ne hok.tail_lt, fun _ => ⟨rfl, ?_⟩, fun hfull => by omega⟩
    exact (ringWindow_put hok hlt _).trans (by rw [hwindow, List.take_concat_get' bs k hk])
  · rw [Nat.min_eq_left (Nat.le_of_not_lt hroom)] at hlength
    have hfull : t.ring.count = t.par.ringCap := by rw [hlength, hpar]
    exact ⟨t, _, hrun, exec_enq_of_full _ hfull, fun hlt => absurd hlt hroom, fun _ => ⟨rfl, rfl⟩⟩

/-- Settles O22: the two branches of the enqueue. -/
theorem enqStoresOrDrops : Obligations.EnqStoresOrDrops := by
  unfold Obligations.EnqStoresOrDrops
  exact fun s b => ⟨exec_enq_of_full b, exec_enq_of_room b⟩

/-- Settles O23: the two branches of the dequeue; RXPOLL after INIT is DEQ. -/
theorem deqAndRxpollTakeTheOldest : Obligations.DeqAndRxpollTakeTheOldest := by
  unfold Obligations.DeqAndRxpollTakeTheOldest
  refine ⟨rfl, fun s i hi => ?_⟩
  have hdeq : exec i s = exec .deq s := by
    obtain rfl | ⟨rfl, hinit⟩ := hi
    · rfl
    · exact exec_rxpoll_eq_exec_deq hinit
  rw [hdeq]
  exact ⟨exec_deq_of_empty, exec_deq_of_nonempty⟩

/-- Settles O24: the count never falls under an operation of the event context or the environment. -/
theorem isemptyAnswers : Obligations.IsemptyAnswers := by
  unfold Obligations.IsemptyAnswers
  refine ⟨fun s => execIsempty_next.mpr rfl, fun i s t hforeground _ hcount h hempty => hcount ?_⟩
  exact Nat.eq_zero_of_le_zero (hempty ▸ count_le_of_exec_event hforeground h)

/-- Settles O58: the four operations change the ring and the result only; of the ring a poll keeps the producer side,
an enqueue the head and every slot but the tail's. -/
theorem frameOfRingOperations : Obligations.FrameOfRingOperations := by
  unfold Obligations.FrameOfRingOperations
  intro i s t hi h
  have hisempty : i = .isempty → t.ring = s.ring := by
    rintro rfl
    obtain rfl := execIsempty_next.mp h
    rfl
  have hpoll : i = .deq ∨ i = .rxpoll → t.ring.tail = s.ring.tail ∧ ∀ x, rbRead t x = rbRead s x := by
    rintro (rfl | rfl)
    · obtain ⟨r, u, hpoll, rfl⟩ := execDeq_next.mp h
      exact (producerSide_of_dequeue hpoll :)
    · obtain ⟨-, r, u, hpoll, rfl⟩ := execRxpoll_next.mp h
      exact (producerSide_of_dequeue hpoll :)
  have henq : (∃ b, i = .enq b) → t.ring.head = s.ring.head ∧ ∀ x, x ≠ s.ring.tail → rbRead t x = rbRead s x := by
    rintro ⟨b, rfl⟩
    obtain ⟨ok, u, hput, rfl⟩ := execEnq_next.mp h
    exact (otherSlots_of_enqueue hput :)
  obtain ⟨r, o, rfl⟩ := exec_ring_operation_eq hi h
  exact ⟨rfl, rfl, rfl, rfl, rfl, rfl, rfl, rfl, rfl, rfl, rfl, hisempty, hpoll, henq, fun _ => rfl⟩

end Sys2Proof.Proofs
end

section
/-! PROOFS. The Transmitter's operations (spec 41_transmitter R141, R142, R146; 43_softuart_facade R164): the cases of
BEGINTX and TXTICK, what the three transmit operations leave, and which operations write the transmit log, the
configuration and the schedule (10_state R35). -/

namespace Sys2Proof.Machine

/-! ### BEGINTX and TXTICK -/

theorem exec_begintx_of_sending {s : State} (b : Byte) (hinit : s.inited = true) (hcfg : s.cfg.tx.isSome = true)
    (hbusy : s.tx.busy = true) : exec (.begintx b) s = .refused .whileSending := by
  simp [exec, execBegintx, needInit, needTxConfig, hinit, hcfg, hbusy]

theorem Transmitter.tick_of_bits {t : Transmitter} (c : Config) (hbusy : t.busy = true) (hbits : 0 < t.bits.toNat) :
    t.tick c =
      { sr := t.sr >>> 1, bits := t.bits - 1#4, busy := true, line := levelOf c (t.sr.getLsbD 0), armed := true } := by
  have hne : t.bits ≠ 0#4 := fun h => by simp [h] at hbits
  simp [Transmitter.tick, hbusy, hne]

theorem Transmitter.tick_of_no_bits {t : Transmitter} (c : Config) (hbusy : t.busy = true) (hbits : t.bits.toNat = 0) :
    t.tick c = { t with line := markLevel c, busy := false, armed := false } := by
  have hzero : t.bits = 0#4 := BitVec.eq_of_toNat_eq hbits
  simp [Transmitter.tick, hbusy, hzero]

theorem Transmitter.tick_of_idle {t : Transmitter} (c : Config) (hidle : t.busy = false) :
    t.tick c = { t with armed := false } := if_pos hidle

/-- The operations of the transmit side touch nothing but the Transmitter, the transmit log and the result. -/
theorem exec_transmit_operation_eq {i : Instr} {s t : State}
    (hi : i = .txtick ∨ ∃ b, i = .txbyte b ∨ i = .begintx b) (h : exec i s = .next t) :
    t = ((s.withTx t.tx).withTxLog t.txLog).withOut t.out := by
  obtain rfl | ⟨b, rfl | rfl⟩ := hi
  · obtain ⟨-, rfl⟩ | ⟨-, rfl⟩ := execTxtick_next.mp h <;> rfl
  · obtain ⟨-, -, ⟨-, rfl⟩ | ⟨-, rfl⟩⟩ := execTxbyte_next.mp h <;> rfl
  · obtain ⟨-, -, -, rfl⟩ := execBegintx_next.mp h; rfl

theorem txLog_eq_of_exec_txtick {s t : State} (h : exec .txtick s = .next t) : t.txLog = s.txLog := by
  obtain ⟨-, rfl⟩ | ⟨-, rfl⟩ := execTxtick_next.mp h <;> rfl

/-! ### The transmit log, the configuration and the schedule -/

/-- The transmit log, the configuration and the schedule are those of `s`. -/
structure SameLogRatesSched (s t : State) : Prop where
  txLog : t.txLog = s.txLog
  cfg : t.cfg = s.cfg
  sched : t.sched = s.sched

/-- `t` comes of loading the byte `b` into the Transmitter: its start bit is on the line, and it stands in the log. -/
structure LoadedFrame (s : State) (b : Byte) (t : State) : Prop where
  tx : t.tx = Transmitter.load s.par b
  txLog : t.txLog = s.txLog ++ [b]
  cfg : t.cfg = s.cfg
  sched : t.sched = s.sched

theorem sameLogRatesSched_of_enqueue {s t : State} {b : Byte} {ok : Bool} (h : enqueue s b = .ok (ok, t)) :
    SameLogRatesSched s t := by
  rw [enqueue_eq_withRing h]; exact ⟨rfl, rfl, rfl⟩

theorem sameLogRatesSched_of_dequeue {s t : State} {r : Option Byte} (h : dequeue s = .ok (r, t)) :
    SameLogRatesSched s t := by
  rw [dequeue_eq_withRing h]; exact ⟨rfl, rfl, rfl⟩

theorem OnlyScan.sameLogRatesSched {s t : State} (h : OnlyScan s t) : SameLogRatesSched s t := by
  rw [h]; exact ⟨rfl, rfl, rfl⟩

theorem SameLogRatesSched.trans {s t u : State} (h : SameLogRatesSched s t) (h' : SameLogRatesSched t u) :
    SameLogRatesSched s u :=
  ⟨h'.txLog.trans h.txLog, h'.cfg.trans h.cfg, h'.sched.trans h.sched⟩

theorem SameLogRatesSched.answer {s t : State} (h : SameLogRatesSched s t) (r : Result) :
    SameLogRatesSched s (t.withOut r) :=
  ⟨h.txLog, h.cfg, h.sched⟩

/-- An operation that changes at most the scan and the control state where it is attached, and holds elsewhere. -/
theorem OnlyScan.sameLogRatesSched_of_attached {s t u : State} {i : Instr} (hu : OnlyScan s u)
    (h : s.inited = true ∧ ((attachedOp s = some i ∧ u.withOut .unit = t) ∨
      (attachedOp s ≠ some i ∧ s.withOut .held = t))) : SameLogRatesSched s t := by
  obtain ⟨-, ⟨-, rfl⟩ | ⟨-, rfl⟩⟩ := h
  · exact hu.sameLogRatesSched.answer _
  · exact ⟨rfl, rfl, rfl⟩

theorem sameLogRatesSched_of_execLaidle {s t : State} (h : execLaidle s = .next t) : SameLogRatesSched s t := by
  obtain ⟨-, ⟨-, rfl⟩ | ⟨-, r, u, hpoll, ⟨-, rfl⟩ | ⟨b, v, -, hstore, rfl⟩⟩⟩ := execLaidle_next.mp h
  · exact ⟨rfl, rfl, rfl⟩
  · exact (sameLogRatesSched_of_dequeue hpoll).answer _
  · obtain ⟨-, -, rfl⟩ := storeByte_ok.mp hstore
    exact (sameLogRatesSched_of_dequeue hpoll).trans ⟨rfl, rfl, rfl⟩

theorem sameLogRatesSched_of_execLaacc {s t : State} (h : execLaacc s = .next t) : SameLogRatesSched s t := by
  obtain ⟨-, ⟨-, rfl⟩ | ⟨-, r, u, hpoll, h⟩⟩ := execLaacc_next.mp h
  · exact ⟨rfl, rfl, rfl⟩
  have hend {v : State} (hbuf : SameLogRatesSched u v) : SameLogRatesSched s ((endCycle v).withOut .unit) :=
    (((sameLogRatesSched_of_dequeue hpoll).trans hbuf).trans (onlyScan_endCycle v).sameLogRatesSched).answer _
  obtain ⟨-, rfl⟩ | ⟨b, v, -, hstore, rfl⟩ := h
  · exact hend ⟨rfl, rfl, rfl⟩
  · obtain ⟨-, -, rfl⟩ := storeByte_ok.mp hstore
    exact hend ⟨rfl, rfl, rfl⟩

/-- An operation outside the facade's rates and the three that load a frame leaves log, rates and schedule. -/
theorem sameLogRatesSched_of_exec {i : Instr} {s t : State} (h : exec i s = .next t)
    (hrates : ∀ a b, i ≠ .init a b ∧ i ≠ .setbaud a b) (hload : ∀ b, i ≠ .begintx b ∧ i ≠ .txbyte b)
    (hemit : i ≠ .sremit) : SameLogRatesSched s t := by
  cases i with
  | init a b => exact absurd rfl (hrates a b).1
  | setbaud a b => exact absurd rfl (hrates a b).2
  | begintx b => exact absurd rfl (hload b).1
  | txbyte b => exact absurd rfl (hload b).2
  | sremit => exact absurd rfl hemit
  | rxpoll => obtain ⟨-, r, u, hpoll, rfl⟩ := execRxpoll_next.mp h; exact (sameLogRatesSched_of_dequeue hpoll).answer _
  | txtick => obtain ⟨-, rfl⟩ | ⟨-, rfl⟩ := execTxtick_next.mp h <;> exact ⟨rfl, rfl, rfl⟩
  | rxtick =>
    obtain ⟨-, rfl⟩ | ⟨-, -, -, rfl⟩ | ⟨-, -, -, ok, u, hput, rfl⟩ := execRxtick_next.mp h
    · exact ⟨rfl, rfl, rfl⟩
    · exact ⟨rfl, rfl, rfl⟩
    · exact (sameLogRatesSched_of_enqueue hput).trans ⟨rfl, rfl, rfl⟩
  | edge => obtain ⟨-, rfl⟩ | ⟨-, -, rfl⟩ := execEdge_next.mp h <;> exact ⟨rfl, rfl, rfl⟩
  | line => obtain ⟨-, rfl⟩ | ⟨-, -, rfl⟩ := execLine_next.mp h <;> exact ⟨rfl, rfl, rfl⟩
  | enq => obtain ⟨ok, u, hput, rfl⟩ := execEnq_next.mp h; exact (sameLogRatesSched_of_enqueue hput).answer _
  | deq => obtain ⟨r, u, hpoll, rfl⟩ := execDeq_next.mp h; exact (sameLogRatesSched_of_dequeue hpoll).answer _
  | isempty => obtain rfl := execIsempty_next.mp h; exact ⟨rfl, rfl, rfl⟩
  | laidle => exact sameLogRatesSched_of_execLaidle h
  | laacc => exact sameLogRatesSched_of_execLaacc h
  | srstart => exact (onlyScan_classifyLine s).sameLogRatesSched_of_attached (execSrstart_next.mp h)
  | srread => exact (onlyScan_readByte s).sameLogRatesSched_of_attached (execSrread_next.mp h)
  | srparse => exact (onlyScan_parseStep s).sameLogRatesSched_of_attached (execSrparse_next.mp h)
  | srend => exact OnlyScan.sameLogRatesSched_of_attached (u := s.withFg .laIdle) rfl (execSrend_next.mp h)

theorem log_and_sched_of_rates {i : Instr} {s t : State} (hi : ∃ a b, i = .init a b ∨ i = .setbaud a b)
    (h : exec i s = .next t) : t.txLog = s.txLog ∧ t.sched = s.sched := by
  obtain ⟨a, b, rfl | rfl⟩ := hi
  · obtain ⟨-, rfl⟩ := execInit_next.mp h; exact ⟨rfl, rfl⟩
  · obtain ⟨-, rfl⟩ := execSetbaud_next.mp h; exact ⟨rfl, rfl⟩

/-- BEGINTX, TXBYTE and SREMIT load one frame, or hold (R141, R164, R187). -/
theorem loadedFrame_or_same {i : Instr} {s t : State} (hi : (∃ b, i = .begintx b ∨ i = .txbyte b) ∨ i = .sremit)
    (h : exec i s = .next t) : (∃ b, LoadedFrame s b t) ∨ SameLogRatesSched s t := by
  obtain ⟨b, rfl | rfl⟩ | rfl := hi
  · obtain ⟨-, -, -, rfl⟩ := execBegintx_next.mp h
    exact .inl ⟨b, rfl, rfl, rfl, rfl⟩
  · obtain ⟨-, -, ⟨-, rfl⟩ | ⟨-, rfl⟩⟩ := execTxbyte_next.mp h
    · exact .inr ⟨rfl, rfl, rfl⟩
    · exact .inl ⟨b, rfl, rfl, rfl, rfl⟩
  · obtain ⟨-, ⟨-, -, -, rfl⟩ | ⟨-, -, -, rfl⟩ | ⟨-, rfl⟩⟩ := execSremit_next.mp h
    · exact .inr ⟨rfl, rfl, rfl⟩
    · exact .inl ⟨_, rfl, rfl, rfl, rfl⟩
    · exact .inr ⟨rfl, rfl, rfl⟩

/-- Who writes the transmit log and the configuration, and that nothing writes the schedule: an operation loads a frame,
or sets rates, or leaves all three. -/
theorem log_rates_sched_of_exec {i : Instr} {s t : State} (h : exec i s = .next t) :
    (((∃ b, i = .begintx b ∨ i = .txbyte b) ∨ i = .sremit) ∧ ∃ b, LoadedFrame s b t) ∨
    ((∃ a b, i = .init a b ∨ i = .setbaud a b) ∧ t.txLog = s.txLog ∧ t.sched = s.sched) ∨
    SameLogRatesSched s t := by
  by_cases hload : (∃ b, i = .begintx b ∨ i = .txbyte b) ∨ i = .sremit
  · exact (loadedFrame_or_same hload h).imp (⟨hload, ·⟩) .inr
  by_cases hrates : ∃ a b, i = .init a b ∨ i = .setbaud a b
  · exact .inr (.inl ⟨hrates, log_and_sched_of_rates hrates h⟩)
  push Not at hload hrates
  exact .inr (.inr (sameLogRatesSched_of_exec h hrates hload.1 hload.2))

end Sys2Proof.Machine

namespace Sys2Proof.Proofs

open Sys2Proof.Machine

/-- Settles O48: the log and the configuration by the kinds of operation (`log_rates_sched_of_exec`); `inited` and the
parameters are kept by every move. -/
theorem whoWritesWhat : Obligations.WhoWritesWhat := by
  unfold Obligations.WhoWritesWhat
  intro i s t h
  have hinit : s.inited = true → t.inited = true := (Moves.of_exec h).keep Move.inited
  have hpar : t.par = s.par :=
    (Moves.of_exec h).keep (P := fun u => u.par = s.par) (fun hmove hu => hmove.par_eq.trans hu) rfl
  obtain ⟨hi, b, hloaded⟩ | ⟨hi, hlog, hsched⟩ | hsame := log_rates_sched_of_exec h
  · refine ⟨fun _ => ?_, fun hcfg => absurd hloaded.cfg hcfg, hinit, hpar, hloaded.sched⟩
    rw [hloaded.tx]
    exact ⟨hloaded.txLog, rfl, rfl, hi⟩
  · exact ⟨fun hgrows => absurd hlog hgrows, fun _ => hi, hinit, hpar, hsched⟩
  · exact ⟨fun hgrows => absurd hsame.txLog hgrows, fun hcfg => absurd hsame.cfg hcfg, hinit, hpar, hsame.sched⟩

/-- Settles O14: the start bit and the loaded BitSlot are `beginFrame`; a sending Transmitter refuses. -/
theorem begintxLoadsTheFrame : Obligations.BegintxLoadsTheFrame := by
  unfold Obligations.BegintxLoadsTheFrame
  exact fun s b hinit hcfg => ⟨exec_begintx_of_idle hinit hcfg, exec_begintx_of_sending b hinit hcfg⟩

/-- Settles O15: the three cases of the tick while the timer is armed, and the hold while it is not. -/
theorem txtickSendsOneBit : Obligations.TxtickSendsOneBit := by
  unfold Obligations.TxtickSendsOneBit
  refine fun s => ⟨fun harmed hbusy hbits => ?_, fun harmed hbusy hbits => ?_, fun harmed hidle => ?_,
    exec_txtick_of_disarmed⟩
  · rw [exec_txtick_of_armed harmed, Transmitter.tick_of_bits s.par hbusy hbits]; rfl
  · rw [exec_txtick_of_armed harmed, Transmitter.tick_of_no_bits s.par hbusy hbits]; rfl
  · rw [exec_txtick_of_armed harmed, Transmitter.tick_of_idle s.par hidle]; rfl

/-- Settles O56: the three operations change the Transmitter, the transmit log and the result only, and TXTICK keeps the
log. -/
theorem frameOfTransmitOperations : Obligations.FrameOfTransmitOperations := by
  unfold Obligations.FrameOfTransmitOperations
  intro i s t hi h
  have hlog : i = .txtick → t.txLog = s.txLog := by
    rintro rfl
    exact txLog_eq_of_exec_txtick h
  rw [exec_transmit_operation_eq hi h]
  exact ⟨rfl, rfl, rfl, rfl, rfl, rfl, rfl, rfl, rfl, rfl, hlog, fun _ => ⟨rfl, rfl⟩⟩

end Sys2Proof.Proofs
end

section
/-! PROOFS. The Receiver's operations (spec 42_receiver R151 to R153): the cases of EDGE, LINE and RXTICK, and what the
three leave. -/

namespace Sys2Proof.Machine

/-! ### EDGE and LINE -/

theorem exec_edge_of_enabled {s : State} (hinit : s.inited = true) (hedge : s.rx.edgeEn = true)
    (hcfg : s.cfg.rx.isSome = true) : exec .edge s = .next ((s.withRx s.rx.start).withOut .unit) :=
  execEdge_next.mpr (.inr ⟨by rw [hinit, hedge]; rfl, hcfg, rfl⟩)

theorem exec_edge_of_disabled {s : State} (h : s.inited = false ∨ s.rx.edgeEn = false) :
    exec .edge s = .next (s.withOut .held) :=
  execEdge_next.mpr (.inl ⟨Bool.and_eq_false_iff.mpr h, rfl⟩)

/-- When the detector reacts to a new level (R153, R213). -/
theorem edgeFires_iff {s : State} {l : Level} :
    edgeFires s l = true ↔
      s.inited = true ∧ s.rx.edgeEn = true ∧ s.rxLine = markLevel s.par ∧ l = spaceLevel s.par := by
  simp only [edgeFires, Bool.and_eq_true, decide_eq_true_eq, and_assoc]

theorem exec_line_of_quiet {s : State} {l : Level}
    (h : ¬ (s.inited = true ∧ s.rx.edgeEn = true ∧ s.rxLine = markLevel s.par ∧ l = spaceLevel s.par)) :
    exec (.line l) s = .next ((s.withRxLine l).withOut .unit) :=
  execLine_next.mpr (.inl ⟨Bool.eq_false_iff.mpr fun hfires => h (edgeFires_iff.mp hfires), rfl⟩)

theorem exec_line_of_start {s : State} {l : Level} (hinit : s.inited = true) (hedge : s.rx.edgeEn = true)
    (hmark : s.rxLine = markLevel s.par) (hspace : l = spaceLevel s.par) (hcfg : s.cfg.rx.isSome = true) :
    exec (.line l) s = .next (((s.withRxLine l).withRx s.rx.start).withOut .unit) :=
  execLine_next.mpr (.inr ⟨edgeFires_iff.mpr ⟨hinit, hedge, hmark, hspace⟩, hcfg, rfl⟩)

/-! ### RXTICK -/

/-- The shift register after the sample `bit`: one place right, the sample at bit 7 (R152). -/
def shiftIn (sr : Byte) (bit : Bool) : Byte := (sr >>> 1) ||| (if bit then 0x80#8 else 0x00#8)

theorem Receiver.sample_sr (c : Config) (l : Level) (r : Receiver) :
    (r.sample c l).sr = shiftIn r.sr (logicOf c l) := by
  cases h : logicOf c l <;> simp [Receiver.sample, shiftIn, h]

theorem Receiver.sample_rearm {r : Receiver} (c : Config) (l : Level) (hbusy : r.busy = true) :
    (r.sample c l).rearm =
      { sr := shiftIn r.sr (logicOf c l), bits := r.bits + 1#4, busy := true, edgeEn := r.edgeEn, armed := true,
        delay := .one } := by
  rw [← Receiver.sample_sr]
  simp [Receiver.rearm, Receiver.sample, hbusy]

theorem Receiver.sample_finish {r : Receiver} (c : Config) (l : Level) (hbits : r.bits.toNat = 7) :
    (r.sample c l).finish =
      { sr := shiftIn r.sr (logicOf c l), bits := 8#4, busy := false, edgeEn := true, armed := false,
        delay := r.delay } := by
  have height : 8#4 = r.bits + 1#4 := by bv_omega
  rw [← Receiver.sample_sr, height]
  rfl

theorem exec_rxtick_of_disarmed {s : State} (h : s.rx.armed = false) : exec .rxtick s = .next (s.withOut .held) :=
  execRxtick_next.mpr (.inl ⟨h, rfl⟩)

theorem exec_rxtick_of_waiting {s : State} (harmed : s.rx.armed = true) (hidle : s.rx.busy = false) :
    exec .rxtick s = .refused .tickWhileWaiting := by
  simp [exec, execRxtick, harmed, hidle]

section
variable {s : State} (harmed : s.rx.armed = true) (hbusy : s.rx.busy = true)
include harmed hbusy

theorem exec_rxtick_of_bits_lt (hbits : s.rx.bits.toNat < 7) :
    exec .rxtick s = .next ((s.withRx (s.rx.sample s.par s.rxLine).rearm).withOut .unit) :=
  execRxtick_next.mpr (.inr (.inl ⟨harmed, hbusy, by bv_omega, rfl⟩))

/-- The eighth tick hands the byte to the enqueue, then waits for the next edge (R152). -/
theorem exec_rxtick_of_last_bit (hbits : s.rx.bits.toNat = 7) {ok : Bool} {u : State}
    (hput : enqueue s (shiftIn s.rx.sr (logicOf s.par s.rxLine)) = .ok (ok, u)) :
    exec .rxtick s = .next ((u.withRx (s.rx.sample s.par s.rxLine).finish).withOut .unit) := by
  rw [← Receiver.sample_sr] at hput
  exact execRxtick_next.mpr (.inr (.inr ⟨harmed, hbusy, by bv_omega, ok, u, hput, rfl⟩))

end

/-! ### What the three operations leave -/

/-- A receive operation changes the Receiver, the receive line (LINE only) and the result, or it is the tick of the last
bit and changes the ring by an enqueue as well. -/
theorem exec_receive_cases {i : Instr} {s t : State} (hi : i = .edge ∨ i = .rxtick ∨ ∃ l, i = .line l)
    (h : exec i s = .next t) :
    (∃ l r o, ((∀ l', i ≠ .line l') → l = s.rxLine) ∧ t = ((s.withRxLine l).withRx r).withOut o) ∨
    (i = .rxtick ∧ 7 ≤ s.rx.bits.toNat ∧
      ∃ b ok u r o, enqueue s b = .ok (ok, u) ∧ t = (u.withRx r).withOut o) := by
  obtain rfl | rfl | ⟨l, rfl⟩ := hi
  · obtain ⟨-, rfl⟩ | ⟨-, -, rfl⟩ := execEdge_next.mp h
    · exact .inl ⟨s.rxLine, s.rx, _, fun _ => rfl, rfl⟩
    · exact .inl ⟨s.rxLine, _, _, fun _ => rfl, rfl⟩
  · obtain ⟨-, rfl⟩ | ⟨-, -, -, rfl⟩ | ⟨-, -, hlast, ok, u, hput, rfl⟩ := execRxtick_next.mp h
    · exact .inl ⟨s.rxLine, s.rx, _, fun _ => rfl, rfl⟩
    · exact .inl ⟨s.rxLine, _, _, fun _ => rfl, rfl⟩
    · exact .inr ⟨rfl, by bv_omega, _, ok, u, _, _, hput, rfl⟩
  · obtain ⟨-, rfl⟩ | ⟨-, -, rfl⟩ := execLine_next.mp h
    · exact .inl ⟨l, s.rx, _, fun hline => absurd rfl (hline l), rfl⟩
    · exact .inl ⟨l, _, _, fun hline => absurd rfl (hline l), rfl⟩

end Sys2Proof.Machine

namespace Sys2Proof.Proofs

open Sys2Proof.Machine

/-- Settles O17: the handler's six assignments, and the hold while the detector is off. -/
theorem edgeStartsSampling : Obligations.EdgeStartsSampling := by
  unfold Obligations.EdgeStartsSampling
  exact fun s => ⟨exec_edge_of_enabled, exec_edge_of_disabled⟩

/-- Settles O19: the two branches of LINE. -/
theorem lineChangesTheLevel : Obligations.LineChangesTheLevel := by
  unfold Obligations.LineChangesTheLevel
  exact fun s l => ⟨exec_line_of_quiet, exec_line_of_start⟩

/-- Settles O18: the branches of RXTICK; at the eighth tick those of the enqueue, which gets the byte with the last
sample in it. -/
theorem rxtickSamplesOneBit : Obligations.RxtickSamplesOneBit := by
  unfold Obligations.RxtickSamplesOneBit
  rintro s v rfl
  refine ⟨exec_rxtick_of_disarmed, exec_rxtick_of_waiting, fun harmed hbusy hbits => ?_, fun harmed hbusy hbits =>
    ⟨fun hfull => ?_, fun hroom htail => ?_⟩⟩
  · rw [exec_rxtick_of_bits_lt harmed hbusy hbits, Receiver.sample_rearm s.par s.rxLine hbusy]
    rfl
  · rw [exec_rxtick_of_last_bit harmed hbusy hbits (enqueue_ok.mpr (.inl ⟨hfull, rfl, rfl⟩)),
      Receiver.sample_finish s.par s.rxLine hbits]
    rfl
  · rw [exec_rxtick_of_last_bit harmed hbusy hbits (enqueue_ok.mpr (.inr ⟨hroom, htail, rfl, rfl⟩)),
      Receiver.sample_finish s.par s.rxLine hbits]
    rfl

/-- Settles O57: the three operations change the Receiver, the line and the result only, and the tick of the last bit
enqueues, which keeps the head and every slot but the tail's. -/
theorem frameOfReceiveOperations : Obligations.FrameOfReceiveOperations := by
  unfold Obligations.FrameOfReceiveOperations
  intro i s t hi h
  obtain ⟨l, r, o, hline, rfl⟩ | ⟨rfl, hlast, b, ok, u, r, o, hput, rfl⟩ := exec_receive_cases hi h
  · exact ⟨rfl, rfl, rfl, rfl, rfl, rfl, rfl, rfl, rfl, rfl, fun _ => rfl, hline, fun _ => rfl, fun _ _ => rfl⟩
  · obtain ⟨hhead, hslots⟩ := otherSlots_of_enqueue hput
    have hlate : ¬ (Instr.rxtick ≠ .rxtick ∨ s.rx.bits.toNat < 7) := by simpa using hlast
    obtain ⟨ring, rfl⟩ : ∃ ring, u = s.withRing ring := ⟨_, enqueue_eq_withRing hput⟩
    exact ⟨rfl, rfl, rfl, rfl, rfl, rfl, rfl, rfl, rfl, hhead, fun hearly => absurd hearly hlate, fun _ => rfl,
      fun _ => rfl, hslots⟩

end Sys2Proof.Proofs
end

section
/-! PROOFS. The receive law (spec 42_receiver R154) and the receive round trip (R158; 30_encoding R111): a byte in
assembly as the samples taken so far, and the run from the start edge to the stored byte. -/

namespace Sys2Proof.Machine

/-! ### The byte made of samples -/

/-- The shift register after the samples `bits`, oldest first, from an empty one (R154). -/
def assembled (bits : List Bool) : Byte := bits.foldl shiftIn 0#8

theorem assembled_concat (bits : List Bool) (bit : Bool) :
    assembled (bits ++ [bit]) = shiftIn (assembled bits) bit := List.foldl_concat ..

theorem getLsbD_shiftIn (sr : Byte) (bit : Bool) {j : Nat} (hj : j < 8) :
    (shiftIn sr bit).getLsbD j = if j = 7 then bit else sr.getLsbD (j + 1) := by
  have hmask : (if bit then 0x80#8 else 0x00#8).getLsbD j = (bit && decide (j = 7)) := by
    cases bit
    · simp
    · show (BitVec.twoPow 8 7).getLsbD j = _
      simp [BitVec.getLsbD_twoPow, eq_comm]
  have hshift : (sr >>> 1).getLsbD j = sr.getLsbD (j + 1) := by
    rw [BitVec.getLsbD_ushiftRight, Nat.add_comm]
  rw [shiftIn, BitVec.getLsbD_or, hmask, hshift]
  by_cases htop : j = 7
  · subst htop; simp
  · simp [htop]

/-- The shift register shows the last eight of eight zeros and the samples. -/
theorem getLsbD_assembled (bits : List Bool) {j : Nat} (hj : j < 8) :
    (assembled bits).getLsbD j = (List.replicate 8 false ++ bits).getD (bits.length + j) false := by
  induction bits using List.reverseRecOn generalizing j with
  | nil =>
    rw [List.append_nil, List.length_nil, Nat.zero_add, List.getD_replicate _ hj]
    exact BitVec.getLsbD_zero
  | append_singleton bits bit ih =>
    have hlen : (List.replicate 8 false ++ bits).length = bits.length + 8 := by
      rw [List.length_append, List.length_replicate, Nat.add_comm]
    rw [assembled_concat, getLsbD_shiftIn _ _ hj, List.length_append, List.length_singleton, ← List.append_assoc]
    split
    · subst j
      rw [List.getD_append_right _ _ _ _ (by omega), hlen]
      simp
    · rw [List.getD_append _ _ _ _ (by omega), ih (by omega), Nat.add_assoc, Nat.add_comm 1 j]

/-- The samples stand at the top of the shift register, the oldest lowest (R154). -/
theorem getLsbD_assembled_sample {bits : List Bool} (hlen : bits.length ≤ 8) {j : Nat} {bit : Bool}
    (hbit : bits[j]? = some bit) : (assembled bits).getLsbD (8 - bits.length + j) = bit := by
  obtain ⟨hj, -⟩ := List.getElem?_eq_some_iff.mp hbit
  have hindex : bits.length + (8 - bits.length + j) = 8 + j := by omega
  rw [getLsbD_assembled bits (by omega), hindex, List.getD_append_right _ _ _ _ (by simp)]
  simp [hbit]

/-- The bits that no sample has reached are zero. -/
theorem getLsbD_assembled_zero {bits : List Bool} {j : Nat} (hj : j < 8 - bits.length) :
    (assembled bits).getLsbD j = false := by
  rw [getLsbD_assembled bits (by omega), List.getD_append _ _ _ _ (by simp; omega)]
  exact List.getD_replicate _ (by omega)

/-- The eight bits of a byte, least significant first, make the byte. -/
theorem assembled_bits (b : Byte) : assembled ((List.range 8).map b.getLsbD) = b := by
  refine BitVec.eq_of_getLsbD_eq fun j hj => ?_
  have hbit : ((List.range 8).map b.getLsbD)[j]? = some (b.getLsbD j) := by simp [List.getElem?_range hj]
  simpa using getLsbD_assembled_sample (by simp) hbit

theorem logicOf_comp_levelOf (c : Config) : logicOf c ∘ levelOf c = id := by
  funext bit
  simp [logicOf, levelOf]

theorem markLevel_ne_spaceLevel (c : Config) : markLevel c ≠ spaceLevel c := by
  simp [markLevel, spaceLevel, levelOf]

/-! ### The run -/

theorem execAll_append_of_next {is js : List Instr} {s t : State} (h : execAll is s = .next t) :
    execAll (is ++ js) s = execAll js t := by
  induction is generalizing s with
  | nil =>
    obtain rfl : s = t := by simpa [execAll] using h
    rfl
  | cons i is ih =>
    rw [List.cons_append]
    cases hi : exec i s with
    | next u =>
      rw [execAll_cons_of_next hi] at h ⊢
      exact ih h
    | _ => simp [execAll, hi] at h

/-- One bit of a frame as the Receiver meets it: the level, then the tick that samples it (R111, R154). -/
def takeLevel (l : Level) : List Instr := [.line l, .rxtick]

/-- From the start edge in `s`, the Receiver of `t` has taken the samples `bits` and waits for the next (R154). -/
structure Sampling (s : State) (bits : List Bool) (t : State) : Prop where
  par : t.par = s.par
  ring : t.ring = s.ring
  sr : t.rx.sr = assembled bits
  count : t.rx.bits.toNat = bits.length
  busy : t.rx.busy = true
  armed : t.rx.armed = true
  edgeEn : t.rx.edgeEn = false

/-- From the start edge in `s`, the Receiver of `t` has stored the byte `b` and waits for the next edge (R152). -/
structure Received (s : State) (b : Byte) (t : State) : Prop where
  par : t.par = s.par
  ring : t.ring = s.ring.put s.par b
  sr : t.rx.sr = b
  count : t.rx.bits.toNat = 8
  busy : t.rx.busy = false
  armed : t.rx.armed = false
  edgeEn : t.rx.edgeEn = true

theorem sampling_edge (s : State) : Sampling s [] ((s.withRx s.rx.start).withOut .unit) :=
  ⟨rfl, rfl, rfl, rfl, rfl, rfl, rfl⟩

theorem sampling_line (s : State) (l : Level) : Sampling s [] (((s.withRxLine l).withRx s.rx.start).withOut .unit) :=
  ⟨rfl, rfl, rfl, rfl, rfl, rfl, rfl⟩

section
variable {s t : State} {bits : List Bool}

/-- During a byte the detector is off, so a new level is only a new level. -/
theorem Sampling.exec_line (h : Sampling s bits t) (l : Level) :
    exec (.line l) t = .next ((t.withRxLine l).withOut .unit) :=
  exec_line_of_quiet fun ⟨_, hedge, _⟩ => Bool.false_ne_true (h.edgeEn.symm.trans hedge)

theorem Sampling.take (h : Sampling s bits t) (l : Level) (hlen : bits.length < 7) :
    ∃ u, execAll (takeLevel l) t = .next u ∧ Sampling s (bits ++ [logicOf s.par l]) u := by
  have hcount := h.count
  have htick := exec_rxtick_of_bits_lt (s := (t.withRxLine l).withOut .unit) h.armed h.busy (hcount ▸ hlen)
  refine ⟨_, (execAll_cons_of_next (h.exec_line l)).trans (execAll_cons_of_next htick), h.par, h.ring, ?_, ?_,
    h.busy, rfl, h.edgeEn⟩
  · rw [assembled_concat, ← h.sr, ← h.par]
    exact Receiver.sample_sr t.par l t.rx
  · show (t.rx.bits + 1#4).toNat = _
    rw [List.length_append, List.length_singleton]
    bv_omega

theorem Sampling.take_last (h : Sampling s bits t) (l : Level) (hlen : bits.length = 7)
    (hroom : s.ring.count < s.par.ringCap) (htail : s.ring.tail < s.par.ringCap) :
    ∃ u, execAll (takeLevel l) t = .next u ∧ Received s (assembled (bits ++ [logicOf s.par l])) u := by
  have hcount : t.rx.bits.toNat = 7 := h.count.trans hlen
  have hsr : shiftIn t.rx.sr (logicOf t.par l) = assembled (bits ++ [logicOf s.par l]) := by
    rw [assembled_concat, h.sr, h.par]
  rw [← h.ring, ← h.par] at hroom htail
  have htick := exec_rxtick_of_last_bit (s := (t.withRxLine l).withOut .unit) h.armed h.busy hcount
    (enqueue_ok.mpr (.inr ⟨hroom.ne, htail, rfl, rfl⟩))
  refine ⟨_, (execAll_cons_of_next (h.exec_line l)).trans (execAll_cons_of_next htick), h.par, ?_, ?_, ?_,
    rfl, rfl, rfl⟩
  · show t.ring.put t.par (shiftIn t.rx.sr (logicOf t.par l)) = _
    rw [hsr, h.ring, h.par]
  · exact (Receiver.sample_sr t.par l t.rx).trans hsr
  · show (t.rx.bits + 1#4).toNat = 8
    bv_omega

/-- Levels that do not fill the byte are taken one by one. -/
theorem Sampling.take_all (h : Sampling s bits t) (ls : List Level) (hlen : bits.length + ls.length ≤ 7) :
    ∃ u, execAll (ls.flatMap takeLevel) t = .next u ∧ Sampling s (bits ++ ls.map (logicOf s.par)) u := by
  induction ls generalizing bits t with
  | nil => exact ⟨t, rfl, by simpa using h⟩
  | cons l ls ih =>
    rw [List.length_cons] at hlen
    obtain ⟨u, hfirst, hu⟩ := h.take l (by omega)
    obtain ⟨v, hrest, hv⟩ := ih hu (by rw [List.length_append, List.length_singleton]; omega)
    rw [List.append_assoc] at hv
    exact ⟨v, (execAll_append_of_next hfirst).trans hrest, hv⟩

/-- Eight levels after the start edge store the byte of their samples. -/
theorem Sampling.take_byte (h : Sampling s [] t) {ls : List Level} (hlen : ls.length = 8)
    (hroom : s.ring.count < s.par.ringCap) (htail : s.ring.tail < s.par.ringCap) :
    ∃ u, execAll (ls.flatMap takeLevel) t = .next u ∧ Received s (assembled (ls.map (logicOf s.par))) u := by
  obtain rfl | ⟨first, l, rfl⟩ := ls.eq_nil_or_concat'
  · cases hlen
  have hseven : first.length = 7 := by simpa using hlen
  obtain ⟨u, hfirst, hu⟩ := h.take_all first (by simp [hseven])
  obtain ⟨v, hlast, hv⟩ := hu.take_last l (by simpa using hseven) hroom htail
  refine ⟨v, ?_, by simpa using hv⟩
  rw [List.flatMap_append, execAll_append_of_next hfirst, List.flatMap_singleton, hlast]

end

/-- The window after a byte is received, whatever the other fields are. -/
theorem Received.ringWindow_eq {s t : State} {b : Byte} (h : Received s b t) (hs : RingOk s)
    (hroom : s.ring.count < s.par.ringCap) : ringWindow t = ringWindow s ++ [b] := by
  rw [← ringWindow_put hs hroom b]
  simp only [ringWindow, rbRead, h.ring, h.par, State.withRing_ring, State.withRing_par]

/-- The data bits of RXFRAME are the levels of the byte's bits. -/
theorem rxBits_eq (c : Config) (b : Byte) :
    (List.range 8).flatMap (rxBit c b) = (((List.range 8).map b.getLsbD).map (levelOf c)).flatMap takeLevel := by
  rw [List.map_map, List.flatMap_map]; rfl

end Sys2Proof.Machine

namespace Sys2Proof.Proofs

open Sys2Proof.Machine

/-- Settles O20: the shift register is `assembled` of the samples, by induction on the levels; the eighth level hands it
to the enqueue. -/
theorem receiveLaw : Obligations.ReceiveLaw := by
  unfold Obligations.ReceiveLaw
  intro s ls hinit hedge hcfg hroom htail hlen
  have hstart := exec_edge_of_enabled hinit hedge hcfg
  have hlength : (ls.map (logicOf s.par)).length = ls.length := List.length_map ..
  have hsample (j : Nat) (l : Level) (hl : ls[j]? = some l) :
      (assembled (ls.map (logicOf s.par))).getLsbD (8 - ls.length + j) = logicOf s.par l := by
    rw [← hlength]
    exact getLsbD_assembled_sample (hlength.trans_le hlen) (by simp [hl])
  have hzero (j : Nat) (hj : j < 8 - ls.length) : (assembled (ls.map (logicOf s.par))).getLsbD j = false :=
    getLsbD_assembled_zero (hlength ▸ hj)
  obtain hlt | heq := hlen.lt_or_eq
  · obtain ⟨t, hrun, ht⟩ := (sampling_edge s).take_all ls (by simpa using Nat.le_of_lt_succ hlt)
    rw [List.nil_append] at ht
    rw [← ht.sr] at hsample hzero
    exact ⟨t, (execAll_cons_of_next hstart).trans hrun, ht.count.trans hlength, hsample, hzero, fun _ => ht.ring,
      fun heq => absurd heq hlt.ne⟩
  · obtain ⟨t, hrun, ht⟩ := (sampling_edge s).take_byte heq hroom htail
    have hstored : rbRead t s.ring.tail = t.rx.sr := by
      rw [rbRead, ht.ring, ht.sr]; exact Memory.read_write_same _ _ _ _
    have hcount : t.ring.count = s.ring.count + 1 := by rw [ht.ring]; rfl
    rw [← ht.sr] at hsample hzero
    exact ⟨t, (execAll_cons_of_next hstart).trans hrun, ht.count.trans heq.symm, hsample, hzero,
      fun hlt => absurd heq hlt.ne, fun _ => ⟨ht.busy, hcount, hstored⟩⟩

/-- Settles O21: the levels of the bits of `b` are sampled as those bits, which make `b`; the stop bit's level is mark
and starts no byte. -/
theorem rxFrameRoundTrip : Obligations.RxFrameRoundTrip := by
  unfold Obligations.RxFrameRoundTrip
  intro s b hs hinit hedge hcfg hmark hroom
  have hstart := exec_line_of_start hinit hedge hmark rfl hcfg
  obtain ⟨t, hrun, ht⟩ := (sampling_line s (spaceLevel s.par)).take_byte
    (ls := ((List.range 8).map b.getLsbD).map (levelOf s.par)) (by simp) hroom hs.ring.tail_lt
  have hbyte : assembled ((((List.range 8).map b.getLsbD).map (levelOf s.par)).map (logicOf s.par)) = b := by
    rw [List.map_map, logicOf_comp_levelOf, List.map_id, assembled_bits]
  rw [hbyte] at ht
  have hstop : exec (.line (markLevel s.par)) t = .next ((t.withRxLine (markLevel s.par)).withOut .unit) :=
    exec_line_of_quiet fun ⟨_, _, _, hspace⟩ => markLevel_ne_spaceLevel s.par (ht.par ▸ hspace)
  refine ⟨(t.withRxLine (markLevel s.par)).withOut .unit, ?_, ht.ringWindow_eq hs.ring hroom,
    ht.busy, ht.edgeEn, ht.armed, rfl⟩
  rw [rxFrame, execAll_cons_of_next hstart, rxBits_eq, execAll_append_of_next hrun, execAll_cons_of_next hstop]
  rfl

end Sys2Proof.Proofs
end

section
/-! PROOFS. The SoftUart facade (spec 43_softuart_facade R161 to R166): the rate resolution, the outcomes of INIT, SETBAUD
and TXBYTE, and the refusal table's gates before INIT and for a direction that was never configured. -/

namespace Sys2Proof.Machine

/-! ### Resolve -/

theorem Config.nodup_rates {c : Config} (h : c.ratesOk = true) : (c.rateTable.map Prod.fst).Nodup := by
  rw [Config.ratesOk, Bool.and_eq_true, decide_eq_true_eq] at h
  exact h.2

/-- With no rate listed twice, the lookup finds a listed rate's own entry. -/
theorem resolveRate_of_mem {c : Config} {rate : Nat} {e : RateEntry} (hrates : c.ratesOk = true)
    (h : (rate, e) ∈ c.rateTable) (previous : Option RateEntry) : resolveRate c rate previous = (some e, true) := by
  have hlookup : c.rateTable.lookup rate = some e := by
    obtain ⟨before, after, htable⟩ := List.append_of_mem h
    have hnodup := Config.nodup_rates hrates
    rw [htable, List.map_append, List.map_cons, List.nodup_append] at hnodup
    obtain ⟨-, -, hfirst⟩ := hnodup
    refine List.lookup_eq_some_iff.mpr ⟨before, after, htable, fun p hp => ?_⟩
    have hother : p.1 ≠ rate := hfirst _ (List.mem_map_of_mem hp) _ List.mem_cons_self
    simpa using hother.symm
  rw [resolveRate, hlookup]

/-! ### INIT, SETBAUD and TXBYTE -/

theorem exec_init_of_uninitialised {s : State} (a b : Nat) (hinit : s.inited = false) :
    exec (.init a b) s = .next ((initialise s a b).withOut (resolveResult s a b)) :=
  execInit_next.mpr ⟨hinit, rfl⟩

theorem exec_init_of_initialised {s : State} (a b : Nat) (hinit : s.inited = true) :
    exec (.init a b) s = .refused .secondInit := if_pos hinit

theorem exec_setbaud_of_initialised {s : State} (a b : Nat) (hinit : s.inited = true) :
    exec (.setbaud a b) s = .next ((s.withCfg (resolveBoth s a b)).withOut (resolveResult s a b)) :=
  execSetbaud_next.mpr ⟨hinit, rfl⟩

section
variable {s : State} (b : Byte) (hinit : s.inited = true) (hcfg : s.cfg.tx.isSome = true)
include hinit hcfg

theorem exec_txbyte_of_idle (hidle : s.tx.busy = false) :
    exec (.txbyte b) s = .next ((beginFrame s b).withOut .unit) :=
  execTxbyte_next.mpr ⟨hinit, hcfg, .inr ⟨hidle, rfl⟩⟩

theorem exec_txbyte_of_sending (hbusy : s.tx.busy = true) : exec (.txbyte b) s = .next (s.withOut .held) :=
  execTxbyte_next.mpr ⟨hinit, hcfg, .inl ⟨hbusy, rfl⟩⟩

end

/-! ### The gates of the refusal table (R166) -/

theorem needInit_of_uninitialised {s : State} (k : Outcome) (hinit : s.inited = false) :
    needInit s k = .refused .beforeInit := if_neg (Bool.eq_false_iff.mp hinit)

theorem needInit_of_initialised {s : State} (k : Outcome) (hinit : s.inited = true) : needInit s k = k := if_pos hinit

theorem needTxConfig_of_none {s : State} (k : Outcome) (hcfg : s.cfg.tx = none) :
    needTxConfig s k = .refused (.unconfigured .tx) := by simp [needTxConfig, hcfg]

theorem needRxConfig_of_none {s : State} (k : Outcome) (hcfg : s.cfg.rx = none) :
    needRxConfig s k = .refused (.unconfigured .rx) := by simp [needRxConfig, hcfg]

/-! ### Before INIT -/

/-- The operations of the table's refuse column stand behind the INIT gate (R166). -/
theorem exec_eq_needInit {i : Instr} (s : State)
    (hi : (∃ a b, i = .setbaud a b) ∨ i = .rxpoll ∨ (∃ b, i = .txbyte b ∨ i = .begintx b) ∨ i = .sremit ∨
      i ∈ [Instr.laidle, .laacc, .srstart, .srread, .srparse, .srend]) : ∃ k, exec i s = needInit s k := by
  obtain ⟨a, b, rfl⟩ | rfl | ⟨b, rfl | rfl⟩ | rfl | hsequencer := hi
  · exact ⟨_, rfl⟩
  · exact ⟨_, rfl⟩
  · exact ⟨_, rfl⟩
  · exact ⟨_, rfl⟩
  · exact ⟨_, rfl⟩
  · revert i
    simp only [List.forall_mem_cons]
    exact ⟨⟨_, rfl⟩, ⟨_, rfl⟩, ⟨_, rfl⟩, ⟨_, rfl⟩, ⟨_, rfl⟩, ⟨_, rfl⟩, List.forall_mem_nil _⟩

theorem exec_enq_answers {s : State} (b : Byte) (h : RingOk s) :
    ∃ t ok, exec (.enq b) s = .next t ∧ t.out = .bool ok := by
  by_cases hfull : s.ring.count = s.par.ringCap
  · exact ⟨_, _, exec_enq_of_full b hfull, rfl⟩
  · exact ⟨_, _, exec_enq_of_room b hfull h.tail_lt, rfl⟩

theorem exec_deq_answers {s : State} (h : RingOk s) : ∃ t r, exec .deq s = .next t ∧ t.out = .byte r := by
  by_cases hempty : s.ring.count = 0
  · exact ⟨_, _, exec_deq_of_empty hempty, rfl⟩
  · exact ⟨_, _, exec_deq_of_nonempty hempty h.head_lt, rfl⟩

/-! ### A direction without a configuration -/

/-- The transmit timer runs only after INIT and with `cfg.tx` configured. -/
theorem TransmitterOk.disarmed {s : State} (h : TransmitterOk s)
    (hunready : ¬ (s.inited = true ∧ s.cfg.tx.isSome = true)) : s.tx.armed = false :=
  h.armed_eq.trans (Bool.eq_false_iff.mpr fun hbusy => hunready (h.busy_ready hbusy))

/-- The receive timer runs only after INIT and with `cfg.rx` configured. -/
theorem ReceiverOk.disarmed {s : State} (h : ReceiverOk s)
    (hunready : ¬ (s.inited = true ∧ s.cfg.rx.isSome = true)) : s.rx.armed = false :=
  h.armed_eq.trans (Bool.eq_false_iff.mpr fun hbusy => hunready (h.busy_ready hbusy))

section
variable {s : State} (hinit : s.inited = true)
include hinit

theorem exec_txbyte_of_unconfigured (b : Byte) (hcfg : s.cfg.tx = none) :
    exec (.txbyte b) s = .refused (.unconfigured .tx) :=
  (needInit_of_initialised _ hinit).trans (needTxConfig_of_none _ hcfg)

theorem exec_begintx_of_unconfigured (b : Byte) (hcfg : s.cfg.tx = none) :
    exec (.begintx b) s = .refused (.unconfigured .tx) :=
  (needInit_of_initialised _ hinit).trans (needTxConfig_of_none _ hcfg)

/-- An attached SREMIT meets the configuration gate (R187). -/
theorem exec_sremit_of_unconfigured (hcfg : s.cfg.tx = none) (hop : attachedOp s = some .sremit) :
    exec .sremit s = .refused (.unconfigured .tx) :=
  (needInit_of_initialised _ hinit).trans ((if_pos hop).trans (needTxConfig_of_none _ hcfg))

theorem exec_edge_of_unconfigured (hcfg : s.cfg.rx = none) (hedge : s.rx.edgeEn = true) :
    exec .edge s = .refused (.unconfigured .rx) :=
  (if_pos (by rw [hinit, hedge]; rfl)).trans (needRxConfig_of_none _ hcfg)

/-- A start edge the detector reacts to meets the configuration gate (R153). -/
theorem exec_line_of_unconfigured (hcfg : s.cfg.rx = none) (hedge : s.rx.edgeEn = true)
    (hmark : s.rxLine = markLevel s.par) : exec (.line (spaceLevel s.par)) s = .refused (.unconfigured .rx) :=
  (if_pos (edgeFires_iff.mpr ⟨hinit, hedge, hmark, rfl⟩)).trans (needRxConfig_of_none _ hcfg)

end

end Sys2Proof.Machine

namespace Sys2Proof.Proofs

open Sys2Proof.Machine

/-- Settles O12: before INIT the gate refuses, and the invariant has both timers disarmed, so the ticks hold, and the
ring's indices in range, so ENQ and DEQ answer; after it a direction without configuration meets its own gate. -/
theorem refusalTable : Obligations.RefusalTable := by
  unfold Obligations.RefusalTable
  intro s hs
  refine ⟨fun hinit => ⟨fun a b => ?_, fun i hi => ?_, ?_, fun l => ?_, fun b => ?_, ?_, ?_⟩,
    fun hinit hcfg => ⟨fun b => ⟨?_, ?_⟩, fun hpass hqueue => ?_, ?_⟩, fun hinit hcfg => ⟨?_, ?_, ?_⟩⟩
  · exact ⟨_, exec_init_of_uninitialised a b hinit, rfl⟩
  · obtain ⟨k, hgate⟩ := exec_eq_needInit s hi
    exact hgate.trans (needInit_of_uninitialised k hinit)
  · have htx := exec_txtick_of_disarmed (hs.transmitter.disarmed (by simp [hinit]))
    have hrx := exec_rxtick_of_disarmed (hs.receiver.disarmed (by simp [hinit]))
    simp only [List.forall_mem_cons]
    exact ⟨exec_edge_of_disabled (.inl hinit), htx, hrx, List.forall_mem_nil _⟩
  · exact exec_line_of_quiet fun ⟨hinit', _⟩ => Bool.false_ne_true (hinit.symm.trans hinit')
  · exact exec_enq_answers b hs.ring
  · exact exec_deq_answers hs.ring
  · exact ⟨_, _, execIsempty_next.mpr rfl, rfl⟩
  · exact exec_txbyte_of_unconfigured hinit b hcfg
  · exact exec_begintx_of_unconfigured hinit b hcfg
  · exact exec_sremit_of_unconfigured hinit hcfg (attachedOp_eq.mpr (.inr ⟨hqueue, hpass, rfl⟩))
  · exact hs.transmitter.disarmed (by simp [hcfg])
  · exact exec_edge_of_unconfigured hinit hcfg
  · exact exec_line_of_unconfigured hinit hcfg
  · exact hs.receiver.disarmed (by simp [hcfg])

/-- Settles O8: the lookup in a table without repeated rates, and in one that does not list the rate. -/
theorem resolveKeepsOrReplaces : Obligations.ResolveKeepsOrReplaces := by
  unfold Obligations.ResolveKeepsOrReplaces
  exact fun c previous => ⟨fun rate e hrates h => resolveRate_of_mem hrates h previous,
    fun rate h => resolveRate_of_not_mem h previous⟩

/-- Settles O9: the two branches of INIT. -/
theorem initEstablishesTheTransceiver : Obligations.InitEstablishesTheTransceiver := by
  unfold Obligations.InitEstablishesTheTransceiver
  exact fun s a b => ⟨exec_init_of_uninitialised a b, exec_init_of_initialised a b⟩

/-- Settles O10: behind the INIT gate SETBAUD assigns `cfg`. -/
theorem setbaudWritesTheRatesOnly : Obligations.SetbaudWritesTheRatesOnly := by
  unfold Obligations.SetbaudWritesTheRatesOnly
  exact fun s a b => exec_setbaud_of_initialised a b

/-- Settles O11: behind both gates TXBYTE loads the frame or holds. -/
theorem txbyteBeginsOrWaits : Obligations.TxbyteBeginsOrWaits := by
  unfold Obligations.TxbyteBeginsOrWaits
  exact fun s b hinit hcfg => ⟨exec_txbyte_of_idle b hinit hcfg, exec_txbyte_of_sending b hinit hcfg⟩

/-- Settles O55: the next state is `initialise`, or `s` with other rates; the fields are read off it. -/
theorem frameOfInitAndSetbaud : Obligations.FrameOfInitAndSetbaud := by
  unfold Obligations.FrameOfInitAndSetbaud
  refine fun s t a b => ⟨fun h => ?_, fun h => ?_⟩
  · obtain ⟨-, rfl⟩ := execInit_next.mp h
    exact ⟨rfl, rfl, rfl, rfl, rfl, rfl, rfl, rfl, rfl, rfl, rfl, rfl, fun _ => ⟨rfl, rfl⟩⟩
  · obtain ⟨-, rfl⟩ := execSetbaud_next.mp h
    exact ⟨rfl, rfl, rfl, rfl, rfl, rfl, rfl, rfl, rfl, rfl, rfl, fun _ => ⟨rfl, rfl⟩⟩

end Sys2Proof.Proofs
end

section
/-! PROOFS. The LineAssembler's operations (spec 44_line_assembler R171 to R173, R175): the cases of LAIDLE and LAACC, a
run of polls without a byte, and what the two operations leave. -/

namespace Sys2Proof.Machine

/-! ### One poll -/

theorem dequeue_of_empty {s : State} (hcount : s.ring.count = 0) : dequeue s = .ok (none, s) :=
  dequeue_ok.mpr (.inl ⟨hcount, rfl, rfl⟩)

theorem dequeue_of_nonempty {s : State} (hcount : s.ring.count ≠ 0) (hhead : s.ring.head < s.par.ringCap) :
    dequeue s = .ok (some (rbRead s s.ring.head), s.withRing (s.ring.drop s.par)) :=
  dequeue_ok.mpr (.inr ⟨hcount, hhead, rfl, rfl⟩)

/-- With an empty queue a control state's own operation is attached (R112). -/
theorem attachedOp_of_fg {s : State} {f : FgState} (hqueue : s.scan.emitq = []) (hfg : s.fg = f) :
    attachedOp s = some f.operation :=
  attachedOp_eq.mpr (.inl ⟨hqueue, congrArg _ hfg⟩)

section
variable {s : State} (hinit : s.inited = true) (hqueue : s.scan.emitq = [])
include hinit hqueue

theorem exec_laidle_of_empty (hfg : s.fg = .laIdle) (hcount : s.ring.count = 0) :
    exec .laidle s = .next (s.withOut .unit) :=
  execLaidle_next.mpr ⟨hinit, .inr ⟨attachedOp_of_fg hqueue hfg,
    _, _, dequeue_of_empty hcount, .inl ⟨rfl, rfl⟩⟩⟩

theorem exec_laidle_of_nonempty (hfg : s.fg = .laIdle) (hcount : s.ring.count ≠ 0)
    (hhead : s.ring.head < s.par.ringCap) (hcap : 2 ≤ s.par.lineCap) :
    exec .laidle s = .next
      (((stored (s.withRing (s.ring.drop s.par)) 0#16 (rbRead s s.ring.head)).withFg .laAcc).withOut .unit) :=
  execLaidle_next.mpr ⟨hinit, .inr ⟨attachedOp_of_fg hqueue hfg,
    _, _, dequeue_of_nonempty hcount hhead,
    .inr ⟨_, _, rfl, storeByte_ok.mpr ⟨Nat.zero_lt_of_lt hcap, hcap, rfl⟩, rfl⟩⟩⟩

theorem exec_laacc_of_empty (hfg : s.fg = .laAcc) (hcount : s.ring.count = 0) :
    exec .laacc s = .next ((endCycle (countIdle s)).withOut .unit) :=
  execLaacc_next.mpr ⟨hinit, .inr ⟨attachedOp_of_fg hqueue hfg,
    _, _, dequeue_of_empty hcount, .inl ⟨rfl, rfl⟩⟩⟩

theorem exec_laacc_of_nonempty (hfg : s.fg = .laAcc) (hcount : s.ring.count ≠ 0)
    (hhead : s.ring.head < s.par.ringCap) (hcell : s.buf.wr.toNat < s.par.lineCap)
    (hnext : (s.buf.wr + 1#16).toNat < s.par.lineCap) :
    exec .laacc s = .next
      ((endCycle (stored (s.withRing (s.ring.drop s.par)) s.buf.wr (rbRead s s.ring.head))).withOut .unit) :=
  execLaacc_next.mpr ⟨hinit, .inr ⟨attachedOp_of_fg hqueue hfg,
    _, _, dequeue_of_nonempty hcount hhead, .inr ⟨_, _, rfl, storeByte_ok.mpr ⟨hcell, hnext, rfl⟩, rfl⟩⟩⟩

end

/-! ### The end tests -/

theorem cycleEnds_iff {s : State} :
    cycleEnds s = true ↔ s.buf.wr.toNat + 1 = s.par.lineCap ∨ s.buf.idle.toNat = s.par.tIdle := by
  simp [cycleEnds]

/-- Below the boundary a poll without a byte ends the cycle by the idle counter only. -/
theorem cycleEnds_countIdle {s : State} (hroom : s.buf.wr.toNat + 1 < s.par.lineCap)
    (hidle : s.buf.idle.toNat + 1 < 65536) :
    cycleEnds (countIdle s) = true ↔ s.buf.idle.toNat + 1 = s.par.tIdle := by
  rw [cycleEnds_iff, ← toNat_next hidle]
  exact or_iff_right hroom.ne

/-- A stored byte clears the idle counter, so it ends the cycle at the boundary only. -/
theorem cycleEnds_stored {s : State} {at_ : Word} (b : Byte) (hwidth : at_.toNat + 1 < 65536)
    (htIdle : 1 ≤ s.par.tIdle) :
    cycleEnds (stored s at_ b) = true ↔ at_.toNat + 1 + 1 = s.par.lineCap := by
  rw [cycleEnds_iff, ← toNat_next hwidth]
  exact or_iff_left (Nat.ne_of_lt htIdle)

theorem endCycle_withOut (s : State) (o : Result) : endCycle (s.withOut o) = (endCycle s).withOut o :=
  (apply_ite (State.withOut · o) (cycleEnds s = true) (handOff s) s).symm

/-! ### Polls without a byte -/

/-- `s` with the idle counter at `k`. -/
def idled (s : State) (k : Nat) : State := s.withBuf { s.buf with idle := BitVec.ofNat 16 k }

theorem idled_zero {s : State} (h : s.buf.idle = 0#16) : idled s 0 = s := by
  unfold idled; rw [← h]; rfl

theorem countIdle_idled (s : State) (k : Nat) : countIdle (idled s k) = idled s (k + 1) := by
  simp only [countIdle, idled, BitVec.ofNat_add]; rfl

theorem idled_idle_toNat {s : State} {k : Nat} (hk : k < 65536) : (idled s k).buf.idle.toNat = k :=
  (BitVec.toNat_ofNat k 16).trans (Nat.mod_eq_of_lt hk)

section
variable {s : State} {k : Nat} (hroom : s.buf.wr.toNat + 1 < s.par.lineCap) (hmax : s.par.tIdle < 65536)
include hroom hmax

theorem endCycle_idled_of_lt (hk : k < s.par.tIdle) : endCycle (idled s k) = idled s k := by
  refine if_neg fun hends => ?_
  obtain hfull | hlate := cycleEnds_iff.mp hends
  · exact hroom.ne hfull
  · exact hk.ne (idled_idle_toNat (hk.trans hmax) ▸ hlate)

omit hroom in
theorem endCycle_idled_tIdle : endCycle (idled s s.par.tIdle) = handOff (idled s s.par.tIdle) :=
  if_pos (cycleEnds_iff.mpr (.inr (idled_idle_toNat hmax)))

/-- `k` polls of an empty ring, `k` at most `T_IDLE`, count to `k`, and the last of them meets the end tests (R172,
R175). -/
theorem execAll_empty_polls (hinit : s.inited = true) (hqueue : s.scan.emitq = []) (hfg : s.fg = .laAcc)
    (hidle : s.buf.idle = 0#16) (hcount : s.ring.count = 0) (hpos : 0 < s.par.tIdle) (hk : k ≤ s.par.tIdle) :
    ∃ o, execAll (List.replicate k .laacc) s = .next ((endCycle (idled s k)).withOut o) := by
  induction k with
  | zero =>
    refine ⟨s.out, ?_⟩
    rw [endCycle_idled_of_lt hroom hmax hpos, idled_zero hidle]
    rfl
  | succ k ih =>
    obtain ⟨o, hrun⟩ := ih (Nat.le_of_succ_le hk)
    rw [endCycle_idled_of_lt hroom hmax hk] at hrun
    have hpoll : exec .laacc ((idled s k).withOut o) = .next ((endCycle (idled s (k + 1))).withOut .unit) :=
      calc exec .laacc ((idled s k).withOut o)
          = .next ((endCycle ((countIdle (idled s k)).withOut o)).withOut .unit) :=
            exec_laacc_of_empty (s := (idled s k).withOut o) hinit hqueue hfg hcount
        _ = .next ((endCycle (idled s (k + 1))).withOut .unit) := by rw [endCycle_withOut, countIdle_idled]; rfl
    exact ⟨.unit, by rw [List.replicate_succ', execAll_append_of_next hrun, execAll_cons_of_next hpoll]; rfl⟩

end

/-! ### What the two operations leave -/

/-- The cursor at which an operation of the LineAssembler stores its byte: LAACC at `wr`, LAIDLE at 0 (R171, R172). -/
def storeCursor (s : State) : Instr → Word
  | .laacc => s.buf.wr
  | _ => 0#16

theorem lbRead_stored_other {s : State} {at_ : Word} {b : Byte} {x : Nat} (hcell : x ≠ at_.toNat)
    (hnext : x ≠ (at_ + 1#16).toNat) : lbRead (stored s at_ b) x = lbRead s x :=
  (Memory.read_write_other _ _ _ hnext).trans (Memory.read_write_other _ _ _ hcell)

/-- The end tests change the cursor of the scan and the control state at most (R173). -/
theorem endCycle_eq (s : State) : ∃ pos fg, endCycle s = (s.withScan { s.scan with pos := pos }).withFg fg := by
  obtain ⟨-, h⟩ | ⟨-, h⟩ := endCycle_cases s
  · exact ⟨_, _, h⟩
  · exact ⟨s.scan.pos, s.fg, h⟩

/-- What an operation of the LineAssembler does to the ring and the LineBuffer: without a byte it changes the idle
counter at most, and with one it takes the byte and stores it. -/
inductive Polled (i : Instr) (s : State) : State → Prop where
  | nothing (idle : Word) : Polled i s (s.withBuf { s.buf with idle := idle })
  | byte (b : Byte) (hcount : s.ring.count ≠ 0) :
      Polled i s (stored (s.withRing (s.ring.drop s.par)) (storeCursor s i) b)

/-- Beside the poll and the store the two operations change the control state, and LAACC the cursor of the scan. -/
theorem exec_assembler_cases {i : Instr} {s t : State} (hi : i = .laidle ∨ i = .laacc) (h : exec i s = .next t) :
    ∃ u pos fg o, Polled i s u ∧ (i = .laidle → pos = s.scan.pos) ∧
      t = ((u.withScan { s.scan with pos := pos }).withFg fg).withOut o := by
  obtain rfl | rfl := hi
  · obtain ⟨-, ⟨-, rfl⟩ | ⟨-, r, u, hpoll, h⟩⟩ := execLaidle_next.mp h
    · exact ⟨s, s.scan.pos, s.fg, _, .nothing s.buf.idle, fun _ => rfl, rfl⟩
    obtain ⟨-, rfl, rfl⟩ | ⟨hcount, -, rfl, rfl⟩ := dequeue_ok.mp hpoll
    · obtain ⟨-, rfl⟩ | ⟨_, _, ⟨⟩, -⟩ := h
      exact ⟨s, s.scan.pos, s.fg, _, .nothing s.buf.idle, fun _ => rfl, rfl⟩
    · obtain ⟨⟨⟩, -⟩ | ⟨b, v, -, hstore, rfl⟩ := h
      obtain ⟨-, -, rfl⟩ := storeByte_ok.mp hstore
      exact ⟨_, s.scan.pos, .laAcc, _, .byte b hcount, fun _ => rfl, rfl⟩
  · obtain ⟨-, ⟨-, rfl⟩ | ⟨-, r, u, hpoll, h⟩⟩ := execLaacc_next.mp h
    · exact ⟨s, s.scan.pos, s.fg, _, .nothing s.buf.idle, nofun, rfl⟩
    obtain ⟨-, rfl, rfl⟩ | ⟨hcount, -, rfl, rfl⟩ := dequeue_ok.mp hpoll
    · obtain ⟨-, rfl⟩ | ⟨_, _, ⟨⟩, -⟩ := h
      obtain ⟨pos, fg, hend⟩ := endCycle_eq (countIdle s)
      exact ⟨_, pos, fg, _, .nothing (s.buf.idle + 1#16), nofun, congrArg (State.withOut · _) hend⟩
    · obtain ⟨⟨⟩, -⟩ | ⟨b, v, -, hstore, rfl⟩ := h
      obtain ⟨-, -, rfl⟩ := storeByte_ok.mp hstore
      obtain ⟨pos, fg, hend⟩ := endCycle_eq (stored (s.withRing (s.ring.drop s.par)) s.buf.wr b)
      exact ⟨_, pos, fg, _, .byte b hcount, nofun, congrArg (State.withOut · _) hend⟩

end Sys2Proof.Machine

namespace Sys2Proof.Proofs

open Sys2Proof.Machine

/-- Settles O30: `k` empty polls leave `idled s k` after the end tests, which hold off while `k < T_IDLE` and hand off
at `T_IDLE`; neither the counter nor the handoff touches the line. -/
theorem idleTimeoutLaw : Obligations.IdleTimeoutLaw := by
  unfold Obligations.IdleTimeoutLaw
  intro s k hs hinit hfg hidle hcount hk
  have hqueue := hs.scan.queue_nil (by rw [hfg]; rfl)
  have hroom : s.buf.wr.toNat + 1 < s.par.lineCap := (hs.line.accumulating hfg).1
  obtain ⟨-, -, hpos, hmax, -⟩ := Config.sizesOk_iff.mp hs.sizes
  have hmax := Nat.lt_succ_of_le hmax
  obtain ⟨o, hrun⟩ := execAll_empty_polls hroom hmax hinit hqueue hfg hidle hcount hpos hk
  have hbuf : (endCycle (idled s k)).buf = (idled s k).buf := (onlyScan_endCycle _).buf_eq
  have hline : lineBytes (endCycle (idled s k)) = lineBytes s :=
    calc lineBytes (endCycle (idled s k))
      _ = lineBytes (idled s k) := lineBytes_of_buf_eq hbuf
      _ = lineBytes s := rfl
  refine ⟨_, hrun, hline, ?_, fun hlt => ?_, ?_⟩
  · have hsentinel := Memory.read_of_lookup (free := Config.powerOnLB) (hs.line.sentinel (by simp [hfg]))
    rw [lbRead_withOut, State.withOut_buf, lbRead, hbuf]
    exact hsentinel
  · rw [endCycle_idled_of_lt hroom hmax hlt]
    exact ⟨hfg, idled_idle_toNat (hlt.trans hmax)⟩
  · rintro rfl
    rw [endCycle_idled_tIdle hmax]
    exact ⟨rfl, rfl⟩

/-- Settles O59: the fields are read off the poll; a store writes the cell at the operation's cursor and the next. -/
theorem frameOfAssemblerOperations : Obligations.FrameOfAssemblerOperations := by
  unfold Obligations.FrameOfAssemblerOperations
  intro i s t hi h
  obtain ⟨u, pos, fg, o, hpoll, hpos, rfl⟩ := exec_assembler_cases hi h
  have hscan (hlaidle : i = .laidle) : { s.scan with pos := pos } = s.scan := by rw [hpos hlaidle]
  cases hpoll with
  | nothing idle =>
    exact ⟨rfl, rfl, rfl, rfl, rfl, rfl, rfl, rfl, rfl, fun _ => rfl, rfl, rfl, rfl, rfl, hscan, fun _ => ⟨rfl, rfl⟩,
      fun _ _ _ _ => rfl, fun _ _ _ _ => rfl⟩
  | byte b hcount =>
    refine ⟨rfl, rfl, rfl, rfl, rfl, rfl, rfl, rfl, rfl, fun _ => rfl, rfl, rfl, rfl, rfl, hscan,
      fun hempty => absurd hempty hcount, ?_, ?_⟩ <;>
    · rintro rfl x hcell hnext
      exact lbRead_stored_other hcell hnext

/-- Settles O27: the two branches of the poll. -/
theorem laidleStartsACycle : Obligations.LaidleStartsACycle := by
  unfold Obligations.LaidleStartsACycle
  exact fun s hinit hfg hqueue => ⟨exec_laidle_of_empty hinit hqueue hfg,
    fun hcount hhead hcap => exec_laidle_of_nonempty hinit hqueue hfg hcount hhead (Nat.le_of_succ_le hcap)⟩

/-- Settles O28: the two branches of the poll; without a byte the idle counter decides the end tests, with one the
boundary. -/
theorem laaccPollsOnce : Obligations.LaaccPollsOnce := by
  unfold Obligations.LaaccPollsOnce
  refine fun s hinit hfg hqueue hcap => ⟨fun hcount hroom hidle => ?_, fun hcount hhead hcell hcapMax htIdle => ?_⟩
  · rw [exec_laacc_of_empty hinit hqueue hfg hcount, endCycle]
    simp only [cycleEnds_countIdle (Nat.add_lt_of_lt_sub hroom) (Nat.succ_lt_succ hidle)]
    split <;> rfl
  · have hnext : s.buf.wr.toNat + 1 < s.par.lineCap := by omega
    have hwidth := hnext.trans_le hcapMax
    have hends (b : Byte) : cycleEnds (stored (s.withRing (s.ring.drop s.par)) s.buf.wr b) = true ↔
        s.buf.wr.toNat + 1 = s.par.lineCap - 1 := by
      rw [cycleEnds_stored (s := s.withRing (s.ring.drop s.par)) b hwidth htIdle, State.withRing_par]
      omega
    refine ⟨_, _, rfl, rfl, ?_⟩
    rw [exec_laacc_of_nonempty hinit hqueue hfg hcount hhead (Nat.lt_of_succ_lt hnext) (by rwa [toNat_next hwidth]),
      endCycle]
    simp only [hends, ← toNat_next hwidth]
    split <;> rfl

end Sys2Proof.Proofs
end

section
/-! PROOFS. The tests of the scan as the rules word them (spec 45_sentence_rewriter R181, R182, R188). -/

namespace Sys2Proof.Machine

theorem atEnd_iff {s : State} {p : Nat} :
    atEnd s p = true ↔ s.par.lineCap ≤ p + 1 ∨ lbRead s p = s.par.sent := by simp [atEnd]

/-- Byte by byte, the index within the buffer (R181). -/
theorem matchAt_iff {s : State} (hcap : 1 ≤ s.par.lineCap) {P : List Byte} {p : Nat} :
    matchAt s p P = true ↔
      ∀ (k : Nat) (b : Byte), P[k]? = some b → p + k ≤ s.par.lineCap - 1 ∧ lbRead s (p + k) = b := by
  induction P generalizing p with
  | nil => simp [matchAt]
  | cons c P ih =>
    rw [matchAt, Bool.and_eq_true, ih, Bool.and_eq_true, decide_eq_true_eq, decide_eq_true_eq, Nat.lt_iff_le_pred hcap]
    simp only [Nat.add_right_comm p 1]
    constructor
    · rintro ⟨hfirst, hrest⟩ (_ | k) b hb
      · obtain rfl : c = b := Option.some.inj hb
        exact hfirst
      · exact hrest k b hb
    · exact fun h => ⟨h 0 c rfl, fun k b hb => h (k + 1) b hb⟩

theorem matchOpt_iff {s : State} {p : Nat} {o : Option (List Byte)} :
    matchOpt s p o = true ↔ ∃ P, o = some P ∧ matchAt s p P = true := by
  cases o <;> simp [matchOpt]

theorem suppressedAt_iff {s : State} {p : Nat} :
    suppressedAt s p = true ↔ ∃ P, (s.par.pSup1 = some P ∨ s.par.pSup2 = some P) ∧ matchAt s p P = true := by
  simp only [suppressedAt, Bool.or_eq_true, matchOpt_iff, or_and_right, exists_or]

theorem isDigit_iff {c : Byte} : isDigit c = true ↔ 0x30 ≤ c.toNat ∧ c.toNat ≤ 0x39 := by
  simp [isDigit, chZero, chNine]

theorem padAt_iff {s : State} {field : Word} {p : Nat} :
    padAt s field p = true ↔
      field.toNat = s.par.targetField ∧ (1 ≤ p ∧ lbRead s (p - 1) = chComma) ∧ isDigit (lbRead s p) = true ∧
      (p + 1 < s.par.lineCap ∧ lbRead s (p + 1) = chComma) := by
  simp only [padAt, Bool.and_eq_true, decide_eq_true_eq, and_assoc]

end Sys2Proof.Machine

namespace Sys2Proof.Proofs

open Sys2Proof.Machine

/-- Settles O31: the matching by induction on the bytes to match; the other tests are their definitions, with `N - 1`
for the boundary. -/
theorem scanTestsAsWorded : Obligations.ScanTestsAsWorded := by
  unfold Obligations.ScanTestsAsWorded
  refine fun s p hcap => ⟨?_, fun P => matchAt_iff hcap, ?_, fun hunset1 hunset2 => ?_, fun field => ?_⟩
  · rw [atEnd_iff, Nat.sub_le_iff_le_add]
  · simp only [suppressedAt_iff, matchAt_iff hcap]
  · simp [suppressedAt, matchOpt, hunset1, hunset2]
  · rw [padAt_iff, isDigit_iff, Nat.lt_iff_le_pred hcap]; rfl

end Sys2Proof.Proofs
end

section
/-! PROOFS. The SentenceRewriter's operations (spec 45_sentence_rewriter R182 to R187): the cases of each, and what they
leave. -/

namespace Sys2Proof.Machine

/-! ### The branches -/

section
variable {s : State}

theorem classifyLine_of_atEnd (hend : atEnd s s.scan.pos.toNat = true) : classifyLine s = s.withFg .srEnd :=
  if_pos hend

theorem readByte_of_atEnd (hend : atEnd s s.scan.pos.toNat = true) : readByte s = s.withFg .srStart := if_pos hend

theorem parseStep_of_atEnd (hend : atEnd s s.scan.pos.toNat = true) : parseStep s = finishRewrite s := if_pos hend

section
variable (hend : atEnd s s.scan.pos.toNat = false)
include hend

theorem classifyLine_of_suppressed (hsup : suppressedAt s s.scan.pos.toNat = true) :
    classifyLine s = (s.withScan { s.scan with txmark := false }).withFg .srRead := by
  simp [classifyLine, hend, hsup]

theorem classifyLine_of_target (hsup : suppressedAt s s.scan.pos.toNat = false)
    (htgt : matchAt s s.scan.pos.toNat s.par.pTgt = true) :
    classifyLine s = (s.withScan { s.scan with field := 0#16, ck := 0#8 }).withFg .srParse := by
  simp [classifyLine, hend, hsup, htgt]

theorem classifyLine_of_default (hsup : suppressedAt s s.scan.pos.toNat = false)
    (htgt : matchAt s s.scan.pos.toNat s.par.pTgt = false) :
    classifyLine s = (s.withScan { s.scan with txmark := true }).withFg .srRead := by
  simp [classifyLine, hend, hsup, htgt]

theorem readByte_of_byte (hqueue : s.scan.emitq = []) :
    readByte s = (s.withScan
      { s.scan with
        emitq := if s.scan.txmark then [lbRead s s.scan.pos.toNat] else []
        pos := s.scan.pos + 1#16 }).withFg (if lbRead s s.scan.pos.toNat = chLF then .srStart else s.fg) := by
  simp [readByte, hend, hqueue]

theorem parseStep_of_star (hstar : lbRead s s.scan.pos.toNat = chStar) :
    parseStep s = finishRewrite (passStar s) := by
  simp [parseStep, hend, hstar]

theorem parseStep_of_byte (hstar : lbRead s s.scan.pos.toNat ≠ chStar) :
    parseStep s = parseByte s (lbRead s s.scan.pos.toNat) := by
  simp [parseStep, hend, hstar]

end

/-- SRSTART ends the pass, starts a line with its mark, or starts the rewrite (R182). -/
theorem classifyLine_cases (s : State) :
    (atEnd s s.scan.pos.toNat = true ∧ classifyLine s = s.withFg .srEnd) ∨
    (atEnd s s.scan.pos.toNat = false ∧
      ((∃ mark, classifyLine s = (s.withScan { s.scan with txmark := mark }).withFg .srRead) ∨
       classifyLine s = (s.withScan { s.scan with field := 0#16, ck := 0#8 }).withFg .srParse)) := by
  cases hend : atEnd s s.scan.pos.toNat with
  | true => exact .inl ⟨rfl, classifyLine_of_atEnd hend⟩
  | false =>
    refine .inr ⟨rfl, ?_⟩
    cases hsup : suppressedAt s s.scan.pos.toNat with
    | true => exact .inl ⟨false, classifyLine_of_suppressed hend hsup⟩
    | false =>
      cases htgt : matchAt s s.scan.pos.toNat s.par.pTgt with
      | true => exact .inr (classifyLine_of_target hend hsup htgt)
      | false => exact .inl ⟨true, classifyLine_of_default hend hsup htgt⟩

/-! ### The operations where they are attached -/

section
variable (hinit : s.inited = true) (hqueue : s.scan.emitq = [])
include hinit hqueue

theorem exec_srstart_of_attached (hfg : s.fg = .srStart) :
    exec .srstart s = .next ((classifyLine s).withOut .unit) :=
  execSrstart_next.mpr ⟨hinit, .inl ⟨attachedOp_of_fg hqueue hfg, rfl⟩⟩

theorem exec_srread_of_attached (hfg : s.fg = .srRead) : exec .srread s = .next ((readByte s).withOut .unit) :=
  execSrread_next.mpr ⟨hinit, .inl ⟨attachedOp_of_fg hqueue hfg, rfl⟩⟩

theorem exec_srparse_of_attached (hfg : s.fg = .srParse) : exec .srparse s = .next ((parseStep s).withOut .unit) :=
  execSrparse_next.mpr ⟨hinit, .inl ⟨attachedOp_of_fg hqueue hfg, rfl⟩⟩

theorem exec_srend_of_attached (hfg : s.fg = .srEnd) : exec .srend s = .next ((s.withFg .laIdle).withOut .unit) :=
  execSrend_next.mpr ⟨hinit, .inl ⟨attachedOp_of_fg hqueue hfg, rfl⟩⟩

end

theorem attachedOp_sremit (hrewriter : s.fg.inRewriter = true) (hqueue : s.scan.emitq ≠ []) :
    attachedOp s = some .sremit :=
  attachedOp_eq.mpr (.inr ⟨hqueue, hrewriter, rfl⟩)

section
variable (hinit : s.inited = true) (hop : attachedOp s = some .sremit) (hcfg : s.cfg.tx.isSome = true)
include hinit hop hcfg

theorem exec_sremit_of_idle (hidle : s.tx.busy = false) :
    exec .sremit s = .next ((beginFrame (dropEmitted s) (s.scan.emitq.headD 0#8)).withOut .unit) :=
  execSremit_next.mpr ⟨hinit, .inr (.inl ⟨hop, hcfg, hidle, rfl⟩)⟩

theorem exec_sremit_of_sending (hbusy : s.tx.busy = true) : exec .sremit s = .next (s.withOut .held) :=
  execSremit_next.mpr ⟨hinit, .inl ⟨hop, hcfg, hbusy, rfl⟩⟩

end

theorem FgState.operation_mem (f : FgState) :
    f.operation ∈ [Instr.laidle, .laacc, .srstart, .srread, .srparse, .srend, .sremit] := by
  cases f <;> decide

/-- In any other control state, or with bytes to emit, the operation of a control state takes no step (R112). -/
theorem withOut_eq_of_exec_elsewhere {f : FgState} (hinit : s.inited = true)
    (helsewhere : s.fg ≠ f ∨ s.scan.emitq ≠ []) {t : State} (h : exec f.operation s = .next t) :
    t.withOut s.out = s := by
  have hop : attachedOp s ≠ some f.operation := fun hop =>
    helsewhere.elim (· (fg_of_attachedOp hop).1) (· (fg_of_attachedOp hop).2)
  rw [exec_of_not_attached hinit _ f.operation_mem hop] at h
  cases h
  rfl

end

/-! ### One byte of the rewrite, and its checksum -/

theorem ne_dollar_of_padAt {s : State} {field : Word} {p : Nat} (h : padAt s field p = true) :
    lbRead s p ≠ chDollar := by
  intro hdollar
  obtain ⟨-, -, hdigit, -⟩ := padAt_iff.mp h
  exact absurd hdigit (by rw [hdollar]; decide)

/-- The field index after the byte `c` (R184). -/
def fieldAfter (field : Word) (c : Byte) : Word := if c = chComma then field + 1#16 else field

/-- What the byte `c` puts on the queue, padded or not (R184, R188). -/
def emittedFor (pad : Bool) (c : Byte) : List Byte := if pad then [chZero, c] else [c]

/-- What a byte adds to the checksum (R190). -/
def folded (b : Byte) : Byte := if b = chDollar ∨ b = chStar then 0#8 else b

theorem foldChecksum_eq_foldl (bs : List Byte) : foldChecksum bs = (bs.map folded).foldl (· ^^^ ·) 0#8 := by
  rw [List.foldl_map, foldChecksum]
  congr 1
  funext acc b
  unfold folded; split <;> simp

theorem foldChecksum_append (bs cs : List Byte) : foldChecksum (bs ++ cs) = foldChecksum bs ^^^ foldChecksum cs := by
  simp only [foldChecksum_eq_foldl, List.map_append, List.foldl_append]
  rw [← List.foldl_assoc (op := (· ^^^ · : Byte → Byte → Byte)), BitVec.xor_zero]

/-- A padded byte adds its `'0'` too, in either order. -/
theorem foldChecksum_emittedFor (pad : Bool) (c : Byte) :
    foldChecksum (emittedFor pad c) = if pad then folded c ^^^ chZero else folded c := by
  cases pad <;> simp [foldChecksum_eq_foldl, emittedFor, BitVec.xor_comm, folded, chZero, chDollar, chStar]

theorem xor_folded (ck : Byte) {c : Byte} (hstar : c ≠ chStar) :
    ck ^^^ folded c = if c = chDollar then ck else ck ^^^ c := by
  unfold folded; split <;> simp_all

/-- The checksum folds what the byte puts on the queue (R190). -/
theorem parseByte_eq {s : State} {c : Byte} (hstar : c ≠ chStar) :
    parseByte s c =
      s.withScan
        { s.scan with
          field := fieldAfter s.scan.field c
          ck := s.scan.ck ^^^ foldChecksum (emittedFor (padAt s (fieldAfter s.scan.field c) s.scan.pos.toNat) c)
          emitq := emittedFor (padAt s (fieldAfter s.scan.field c) s.scan.pos.toNat) c
          pos := s.scan.pos + 1#16 } := by
  have hck (pad : Bool) : (if pad then (s.scan.ck ^^^ folded c) ^^^ chZero else s.scan.ck ^^^ folded c) =
      s.scan.ck ^^^ foldChecksum (emittedFor pad c) := by
    rw [foldChecksum_emittedFor]; cases pad <;> simp [BitVec.xor_assoc]
  rw [← hck, xor_folded _ hstar]
  rfl

theorem ck_of_classifyLine {s : State} (hparse : (classifyLine s).fg = .srParse) : (classifyLine s).scan.ck = 0#8 := by
  obtain ⟨-, h⟩ | ⟨-, ⟨mark, h⟩ | h⟩ := classifyLine_cases s <;> rw [h] at hparse ⊢
  · cases hparse
  · cases hparse
  · rfl

theorem ck_of_parseStep {s : State} (hparse : (parseStep s).fg = .srParse) :
    (parseStep s).scan.ck = s.scan.ck ^^^ foldChecksum (parseStep s).scan.emitq := by
  cases hend : atEnd s s.scan.pos.toNat with
  | true => rw [parseStep_of_atEnd hend] at hparse; cases hparse
  | false =>
    by_cases hstar : lbRead s s.scan.pos.toNat = chStar
    · rw [parseStep_of_star hend hstar] at hparse; cases hparse
    · rw [parseStep_of_byte hend hstar, parseByte_eq hstar]; rfl

/-! ### What the operations leave -/

theorem classifyLine_keeps (s : State) :
    (classifyLine s).scan.pos = s.scan.pos ∧ (classifyLine s).scan.emitq = s.scan.emitq := by
  obtain ⟨-, h⟩ | ⟨-, ⟨mark, h⟩ | h⟩ := classifyLine_cases s <;> rw [h] <;> exact ⟨rfl, rfl⟩

theorem readByte_keeps (s : State) :
    (readByte s).scan.field = s.scan.field ∧ (readByte s).scan.ck = s.scan.ck ∧
      (readByte s).scan.txmark = s.scan.txmark := by
  unfold readByte; split <;> exact ⟨rfl, rfl, rfl⟩

theorem parseStep_keeps (s : State) : (parseStep s).scan.txmark = s.scan.txmark := by
  unfold parseStep; dsimp only; repeat' split
  all_goals rfl

/-- An operation of the rewriter that scans changes the scan, the control state and the result at most. -/
theorem OnlyScan.eq_of_attached {s t u : State} {i : Instr} (hu : OnlyScan s u)
    (h : s.inited = true ∧ ((attachedOp s = some i ∧ u.withOut .unit = t) ∨
      (attachedOp s ≠ some i ∧ s.withOut .held = t))) : t = ((s.withScan t.scan).withFg t.fg).withOut t.out := by
  obtain ⟨-, ⟨-, rfl⟩ | ⟨-, rfl⟩⟩ := h
  · exact congrArg (State.withOut · .unit) hu
  · rfl

theorem exec_scanning_operation_eq {i : Instr} {s t : State} (hi : i ∈ [Instr.srstart, .srread, .srparse, .srend])
    (h : exec i s = .next t) : t = ((s.withScan t.scan).withFg t.fg).withOut t.out := by
  simp only [List.mem_cons, List.not_mem_nil, or_false] at hi
  obtain rfl | rfl | rfl | rfl := hi
  · exact (onlyScan_classifyLine s).eq_of_attached (execSrstart_next.mp h)
  · exact (onlyScan_readByte s).eq_of_attached (execSrread_next.mp h)
  · exact (onlyScan_parseStep s).eq_of_attached (execSrparse_next.mp h)
  · exact OnlyScan.eq_of_attached (u := s.withFg .laIdle) rfl (execSrend_next.mp h)

/-- SREMIT changes the queue, the Transmitter, the transmit log and the result at most (R187). -/
theorem exec_sremit_eq {s t : State} (h : exec .sremit s = .next t) :
    t = ((((s.withScan { s.scan with emitq := t.scan.emitq }).withTx t.tx).withTxLog t.txLog).withOut t.out) := by
  obtain ⟨-, ⟨-, -, -, rfl⟩ | ⟨-, -, -, rfl⟩ | ⟨-, rfl⟩⟩ := execSremit_next.mp h <;> rfl

end Sys2Proof.Machine

namespace Sys2Proof.Proofs

open Sys2Proof.Machine

/-- Settles O39: only the classification as target enters the rewrite, and a step that stays in it is `parseByte`. -/
theorem checksumFoldsTheEmittedBytes : Obligations.ChecksumFoldsTheEmittedBytes := by
  unfold Obligations.ChecksumFoldsTheEmittedBytes
  intro s t hqueue
  constructor
  · intro h hfg hparse
    obtain ⟨-, ⟨-, rfl⟩ | ⟨-, rfl⟩⟩ := execSrstart_next.mp h
    · exact ck_of_classifyLine hparse
    · exact absurd (hfg.symm.trans hparse) nofun
  · intro h hfg hparse
    obtain ⟨-, ⟨-, rfl⟩ | ⟨hop, -⟩⟩ := execSrparse_next.mp h
    · exact ck_of_parseStep hparse
    · exact absurd (attachedOp_of_fg hqueue hfg) hop

/-- Settles O60: the four scanning operations change the scan and the control state, SREMIT the queue, the Transmitter
and the log; the scan fields that each keeps. -/
theorem frameOfRewriterOperations : Obligations.FrameOfRewriterOperations := by
  unfold Obligations.FrameOfRewriterOperations
  intro i s t hi h
  have hstart : i = .srstart → t.scan.pos = s.scan.pos ∧ t.scan.emitq = s.scan.emitq := by
    rintro rfl
    obtain ⟨-, ⟨-, rfl⟩ | ⟨-, rfl⟩⟩ := execSrstart_next.mp h
    · exact classifyLine_keeps s
    · exact ⟨rfl, rfl⟩
  have hread : i = .srread →
      t.scan.field = s.scan.field ∧ t.scan.ck = s.scan.ck ∧ t.scan.txmark = s.scan.txmark := by
    rintro rfl
    obtain ⟨-, ⟨-, rfl⟩ | ⟨-, rfl⟩⟩ := execSrread_next.mp h
    · exact readByte_keeps s
    · exact ⟨rfl, rfl, rfl⟩
  have hparse : i = .srparse → t.scan.txmark = s.scan.txmark := by
    rintro rfl
    obtain ⟨-, ⟨-, rfl⟩ | ⟨-, rfl⟩⟩ := execSrparse_next.mp h
    · exact parseStep_keeps s
    · rfl
  have hend : i = .srend → t.scan = s.scan := by
    rintro rfl
    obtain ⟨-, ⟨-, rfl⟩ | ⟨-, rfl⟩⟩ := execSrend_next.mp h <;> rfl
  by_cases hemit : i = .sremit
  · subst hemit
    rw [exec_sremit_eq h]
    exact ⟨rfl, rfl, rfl, rfl, rfl, rfl, rfl, rfl, nofun, nofun, nofun, nofun, nofun, fun _ => ⟨rfl, rfl⟩,
      fun _ => ⟨rfl, rfl⟩⟩
  · rw [exec_scanning_operation_eq (by simpa [hemit] using hi) h]
    exact ⟨rfl, rfl, rfl, rfl, rfl, rfl, rfl, rfl, fun _ => ⟨rfl, rfl⟩, hstart, hread, hparse, hend,
      fun h => absurd h hemit, fun _ => ⟨rfl, rfl⟩⟩

/-- Settles O32: the four branches of the classification. -/
theorem srstartClassifies : Obligations.SrstartClassifies := by
  unfold Obligations.SrstartClassifies
  intro s hinit hfg hqueue
  rw [exec_srstart_of_attached hinit hqueue hfg]
  refine ⟨fun hend => ?_, fun hend => ⟨fun hsup => ?_, fun hsup htgt => ?_, fun hsup htgt => ?_⟩⟩
  · rw [classifyLine_of_atEnd hend]; rfl
  · rw [classifyLine_of_suppressed hend hsup]; rfl
  · rw [classifyLine_of_target hend hsup htgt]; rfl
  · rw [classifyLine_of_default hend hsup htgt]; rfl

/-- Settles O33: the two branches where SRREAD is attached, and the hold elsewhere. -/
theorem srreadOneByte : Obligations.SrreadOneByte := by
  unfold Obligations.SrreadOneByte
  refine ⟨rfl, ?_⟩
  rintro s c hinit rfl
  refine ⟨fun hfg hqueue => ?_, fun helsewhere t => withOut_eq_of_exec_elsewhere (f := .srRead) hinit helsewhere⟩
  rw [exec_srread_of_attached hinit hqueue hfg]
  refine ⟨fun hend => ?_, fun hend => ?_⟩
  · rw [readByte_of_atEnd hend]; rfl
  · rw [readByte_of_byte hend hqueue, hfg]; rfl

/-- Settles O34: `parseByte` padded and not; a padded byte is a digit, so it is not the `$` that is not folded. -/
theorem srparseScansOneByte : Obligations.SrparseScansOneByte := by
  unfold Obligations.SrparseScansOneByte
  rintro s c f hinit hfg hqueue hend rfl hstar rfl
  rw [exec_srparse_of_attached hinit hqueue hfg, parseStep_of_byte hend hstar, parseByte_eq hstar]
  refine ⟨fun hpad => ?_, fun hpad => ?_⟩
  · rw [show padAt s (fieldAfter _ _) _ = true from hpad, foldChecksum_emittedFor, if_pos rfl, ← BitVec.xor_assoc,
      xor_folded _ hstar, if_neg (ne_dollar_of_padAt hpad)]
    rfl
  · rw [show padAt s (fieldAfter _ _) _ = false from hpad, foldChecksum_emittedFor, if_neg Bool.false_ne_true,
      xor_folded _ hstar]
    rfl

/-- Settles O35: the two ways to `Finish`, with an empty queue before it. -/
theorem srparseFinishes : Obligations.SrparseFinishes := by
  unfold Obligations.SrparseFinishes
  rintro s p tr hinit hfg hqueue rfl rfl
  rw [exec_srparse_of_attached hinit hqueue hfg]
  refine ⟨fun hend => ?_, fun hend hstar => ?_⟩
  · rw [parseStep_of_atEnd hend, finishRewrite, hqueue]; rfl
  · rw [parseStep_of_star hend hstar, finishRewrite, passStar, hqueue]; rfl

/-- Settles O37: the step where SREND is attached, and the hold elsewhere. -/
theorem srendReturnsToIdle : Obligations.SrendReturnsToIdle := by
  unfold Obligations.SrendReturnsToIdle
  exact ⟨rfl, fun s hinit => ⟨fun hfg hqueue => exec_srend_of_attached hinit hqueue hfg,
    fun helsewhere t => withOut_eq_of_exec_elsewhere (f := .srEnd) hinit helsewhere⟩⟩

/-- Settles O38: behind the gates SREMIT loads the frame of the queue's head, or holds. -/
theorem sremitHandsOver : Obligations.SremitHandsOver := by
  unfold Obligations.SremitHandsOver
  intro s b q hinit hrewriter hqueue hcfg
  have hop := attachedOp_sremit hrewriter (by rw [hqueue]; simp)
  refine ⟨fun hidle => ?_, exec_sremit_of_sending hinit hop hcfg⟩
  rw [exec_sremit_of_idle hinit hop hcfg hidle, dropEmitted, hqueue]; rfl

end Sys2Proof.Proofs
end

section
/-! PROOFS. Runs of a pass (spec 45_sentence_rewriter R187, R190, R191, R195): one scanning step and the frames of the
bytes it emits, and the bytes of a line that stand before its end. -/

namespace Sys2Proof.Machine

/-! ### Foreground steps -/

/-- With an empty queue a foreground step is the operation of the control state (R112). -/
theorem passStep_of_fg {s : State} {f : FgState} (hqueue : s.scan.emitq = []) (hfg : s.fg = f) :
    passStep s = exec f.operation s := by
  have hop := attachedOp_of_fg hqueue hfg
  cases h : exec f.operation s <;> simp [passStep, hop, f.operation_eq_sremit, execAll, h]

theorem passSteps_add_of_next {m : Nat} {s t : State} (n : Nat) (h : passSteps m s = .next t) :
    passSteps (m + n) s = passSteps n t := by
  induction m generalizing s with
  | zero =>
    obtain rfl : s = t := by simpa [passSteps] using h
    rw [Nat.zero_add]
  | succ m ih =>
    rw [Nat.succ_add, passSteps]
    rw [passSteps] at h
    cases hstep : passStep s with
    | next u => rw [hstep] at h; exact ih h
    | _ => simp [hstep] at h

theorem passSteps_one (s : State) : passSteps 1 s = passStep s := by
  cases h : passStep s <;> simp [passSteps, h]

/-- `s` after the frame of the head of its queue: SREMIT and its nine ticks (R143, R187). -/
def afterFrame (s : State) : State :=
  ((beginFrame (dropEmitted s) (s.scan.emitq.headD 0#8)).withTx
    (Transmitter.inSlot s.par (s.scan.emitq.headD 0#8) 9)).withOut .unit

theorem passReady_afterFrame {s : State} (h : PassReady s) : PassReady (afterFrame s) := ⟨h.inited, h.cfgTx, rfl, rfl⟩

theorem passStep_of_queue {s : State} (hready : PassReady s) (hrewriter : s.fg.inRewriter = true)
    (hqueue : s.scan.emitq ≠ []) : passStep s = .next (afterFrame s) := by
  have hop := attachedOp_sremit hrewriter hqueue
  have hframe := execAll_ticks_from_slot (beginFrame (dropEmitted s) (s.scan.emitq.headD 0#8))
    (s.scan.emitq.headD 0#8) 0 9 (by decide)
  rw [← Transmitter.load_eq_inSlot] at hframe
  rw [passStep, hop]
  exact (execAll_cons_of_next (exec_sremit_of_idle hready.inited hop hready.cfgTx hready.txIdle)).trans hframe

theorem classifyLine_inRewriter (s : State) : (classifyLine s).fg.inRewriter = true := by
  obtain h | h | h := classifyLine_fg s <;> rw [h] <;> rfl

theorem readByte_inRewriter {s : State} (h : s.fg.inRewriter = true) : (readByte s).fg.inRewriter = true := by
  obtain h' | h' := readByte_fg s <;> rw [h']
  · rfl
  · exact h

theorem parseStep_inRewriter {s : State} (h : s.fg.inRewriter = true) : (parseStep s).fg.inRewriter = true := by
  obtain h' | h' := parseStep_fg s <;> rw [h']
  · rfl
  · exact h

/-- Within 16 bits the skip does not wrap the cursor (R44, R185). -/
theorem toNat_skip {w : Word} {n : Nat} (h : w.toNat + n < 65536) : (w + BitVec.ofNat 16 n).toNat = w.toNat + n := by
  rw [BitVec.toNat_add, BitVec.toNat_ofNat]; omega

/-! ### Runs -/

/-- A run of foreground steps leads from `s` to `t` and transmits `bs`: the line is the same, nothing is left to emit,
and the Transmitter is idle again. -/
structure PassRun (s : State) (bs : List Byte) (t : State) : Prop where
  run : ∃ n, passSteps n s = .next t
  par : t.par = s.par
  buf : t.buf = s.buf
  txLog : t.txLog = s.txLog ++ bs
  ready : PassReady t
  queue : t.scan.emitq = []

theorem PassRun.refl {s : State} (hready : PassReady s) (hqueue : s.scan.emitq = []) : PassRun s [] s :=
  ⟨⟨0, rfl⟩, rfl, rfl, (List.append_nil _).symm, hready, hqueue⟩

theorem PassRun.trans {s t u : State} {bs cs : List Byte} (h : PassRun s bs t) (h' : PassRun t cs u) :
    PassRun s (bs ++ cs) u := by
  obtain ⟨m, hm⟩ := h.run
  obtain ⟨n, hn⟩ := h'.run
  refine ⟨⟨m + n, (passSteps_add_of_next n hm).trans hn⟩, h'.par.trans h.par, h'.buf.trans h.buf, ?_, h'.ready,
    h'.queue⟩
  rw [h'.txLog, h.txLog, List.append_assoc]

/-- In a rewriter's state the queue is sent, byte by byte. -/
theorem passRun_drain {s : State} (hready : PassReady s) (hrewriter : s.fg.inRewriter = true) :
    ∃ t, PassRun s s.scan.emitq t ∧ t.fg = s.fg ∧ t.scan = { s.scan with emitq := [] } := by
  generalize hq : s.scan.emitq = q
  induction q generalizing s with
  | nil => exact ⟨s, .refl hready hq, rfl, by rw [← hq]⟩
  | cons b q ih =>
    have hstep := passStep_of_queue hready hrewriter (by rw [hq]; exact List.cons_ne_nil b q)
    obtain ⟨t, ⟨⟨n, hn⟩, hpar, hbuf, hlog, hready', hqueue⟩, hfg, hscan⟩ :=
      ih (passReady_afterFrame hready) hrewriter (congrArg List.tail hq)
    refine ⟨t, ⟨⟨1 + n, ?_⟩, hpar, hbuf, ?_, hready', hqueue⟩, hfg, hscan⟩
    · rw [passSteps_add_of_next n ((passSteps_one s).trans hstep), hn]
    · have hhead : (afterFrame s).txLog = s.txLog ++ [b] := by simp [afterFrame, beginFrame, dropEmitted, hq]
      rw [hlog, hhead, List.append_assoc, List.singleton_append]

theorem OnlyScan.passReady {s u : State} (h : OnlyScan s u) (hready : PassReady s) : PassReady u := by
  rw [h]; exact ⟨hready.inited, hready.cfgTx, hready.txIdle, hready.txDisarmed⟩

/-- A scanning step to `u`, and the frames of the bytes it emits. -/
theorem passRun_step {s u : State} {f : FgState} (hready : PassReady s) (hqueue : s.scan.emitq = []) (hfg : s.fg = f)
    (hscan : OnlyScan s u) (hrewriter : u.fg.inRewriter = true)
    (hexec : exec f.operation s = .next (u.withOut .unit)) :
    ∃ t, PassRun s u.scan.emitq t ∧ t.fg = u.fg ∧ t.scan = { u.scan with emitq := [] } := by
  have hstep : passSteps 1 s = .next (u.withOut .unit) :=
    (passSteps_one s).trans ((passStep_of_fg hqueue hfg).trans hexec)
  obtain ⟨hinit, hcfg, hidle, hdisarmed⟩ := hscan.passReady hready
  have hready' : PassReady (u.withOut .unit) := ⟨hinit, hcfg, hidle, hdisarmed⟩
  obtain ⟨t, ⟨⟨n, hn⟩, hpar, hbuf, hlog, hready', hqueue'⟩, hfg', hscan'⟩ := passRun_drain hready' hrewriter
  exact ⟨t, ⟨⟨1 + n, (passSteps_add_of_next n hstep).trans hn⟩, hpar.trans hscan.sameTransceiver.par,
    hbuf.trans hscan.buf_eq, hlog.trans (congrArg (· ++ _) hscan.sameLogRatesSched.txLog), hready', hqueue'⟩, hfg',
    hscan'⟩

/-! ### The line during a run -/

theorem atEnd_eq_false_of {s : State} {p : Nat} (hroom : p + 1 < s.par.lineCap) (hbyte : lbRead s p ≠ s.par.sent) :
    atEnd s p = false := by
  simpa [atEnd] using ⟨hroom, hbyte⟩

section
variable {s t : State} {bs : List Byte} (h : PassRun s bs t)
include h

theorem PassRun.lbRead_eq : lbRead t = lbRead s := by
  unfold lbRead; rw [h.buf]

theorem PassRun.lbSlice_eq : lbSlice t = lbSlice s := by
  unfold lbSlice; rw [h.lbRead_eq]

theorem PassRun.atEnd_eq : atEnd t = atEnd s := by
  unfold atEnd; rw [h.lbRead_eq, h.par]

theorem PassRun.padAt_eq : padAt t = padAt s := by
  unfold padAt; rw [h.lbRead_eq, h.par]

theorem PassRun.rewrittenBody_eq (p : Nat) (field : Word) (cs : List Byte) :
    rewrittenBody t p field cs = rewrittenBody s p field cs := by
  induction cs generalizing p field with
  | nil => rfl
  | cons c cs ih => simp only [rewrittenBody, h.padAt_eq, ih]

end

theorem lbSlice_succ (s : State) (p n : Nat) : lbSlice s p (n + 1) = lbRead s p :: lbSlice s (p + 1) n := by
  simp [lbSlice, List.range_succ_eq_map, Function.comp_def, Nat.add_comm 1, Nat.add_assoc]

theorem lbSlice_add (s : State) (p m n : Nat) : lbSlice s p (m + n) = lbSlice s p m ++ lbSlice s (p + m) n := by
  simp [lbSlice, List.range_add, Function.comp_def, Nat.add_assoc]

/-- Bytes that stand in the LineBuffer from `p`, taken apart at the first. -/
theorem lbSlice_eq_cons_iff {s : State} {p : Nat} {c : Byte} {cs : List Byte} :
    lbSlice s p (c :: cs).length = c :: cs ↔ lbRead s p = c ∧ lbSlice s (p + 1) cs.length = cs := by
  rw [List.length_cons, lbSlice_succ, List.cons.injEq]

/-- Bytes that stand in the LineBuffer from `p`, taken apart between two parts. -/
theorem lbSlice_eq_append_iff {s : State} {p : Nat} {bs cs : List Byte} :
    lbSlice s p (bs.length + cs.length) = bs ++ cs ↔
      lbSlice s p bs.length = bs ∧ lbSlice s (p + bs.length) cs.length = cs := by
  rw [lbSlice_add]
  exact ⟨fun h => List.append_inj h (by simp [lbSlice]), fun ⟨h, h'⟩ => by rw [h, h']⟩

/-- The bytes `body` stand from index `p`, below the boundary, and neither the byte `stop` nor the sentinel is among
them. -/
structure StandsBefore (s : State) (stop : Byte) (p : Nat) (body : List Byte) : Prop where
  bytes : lbSlice s p body.length = body
  plain : ∀ b ∈ body, b ≠ stop ∧ b ≠ s.par.sent
  room : p + body.length + 1 ≤ s.par.lineCap

theorem PassRun.standsBefore {s t : State} {bs body : List Byte} {stop : Byte} {p : Nat} (h : PassRun s bs t)
    (hbody : StandsBefore s stop p body) : StandsBefore t stop p body :=
  ⟨by rw [h.lbSlice_eq]; exact hbody.bytes, by rw [h.par]; exact hbody.plain, by rw [h.par]; exact hbody.room⟩

/-- The first of such bytes is not at the end of the scan, and the others stand behind it. -/
theorem StandsBefore.uncons {s : State} {stop c : Byte} {p : Nat} {cs : List Byte}
    (h : StandsBefore s stop p (c :: cs)) :
    lbRead s p = c ∧ c ≠ stop ∧ atEnd s p = false ∧ StandsBefore s stop (p + 1) cs := by
  obtain ⟨hbytes, hplain, hroom⟩ := h
  obtain ⟨hc, hcs⟩ := lbSlice_eq_cons_iff.mp hbytes
  obtain ⟨⟨hstop, hsent⟩, hplain'⟩ := List.forall_mem_cons.mp hplain
  rw [List.length_cons] at hroom
  exact ⟨hc, hstop, atEnd_eq_false_of (by omega) (by rwa [hc]), hcs, hplain', by omega⟩

/-- A line with a byte in it, or with one behind it, does not start at the end of the scan. -/
theorem StandsBefore.atEnd_eq_false {s : State} {stop : Byte} {p : Nat} {body : List Byte}
    (h : StandsBefore s stop p body) (hbyte : body ≠ [] ∨ atEnd s (p + body.length) = false) : atEnd s p = false := by
  cases body with
  | nil => exact hbyte.resolve_left (· rfl)
  | cons c cs =>
    obtain ⟨-, -, hend, -⟩ := h.uncons
    exact hend

end Sys2Proof.Machine
end

section
/-! PROOFS. What a pass does with a line (spec 45_sentence_rewriter R183, R195) and with a rewrite-target sentence
(R184, R185, R190, R191). -/

namespace Sys2Proof.Machine

/-- What SRREAD transmits of the bytes it passes (R183). -/
def markedBytes (mark : Bool) (bs : List Byte) : List Byte := if mark then bs else []

theorem markedBytes_append (mark : Bool) (bs cs : List Byte) :
    markedBytes mark bs ++ markedBytes mark cs = markedBytes mark (bs ++ cs) := by
  cases mark <;> rfl

/-- What `Finish` transmits past a `*` (R184, R185). -/
def starBytes (c : Config) : List Byte := if c.starEmitted then [chStar] else []

/-! ### One step and its frames -/

section
variable {s : State} (hready : PassReady s) (hqueue : s.scan.emitq = [])
include hready hqueue

theorem passRun_classify (hfg : s.fg = .srStart) :
    ∃ t, PassRun s [] t ∧ t.fg = (classifyLine s).fg ∧ t.scan = (classifyLine s).scan := by
  have hqueue' : (classifyLine s).scan.emitq = [] := (classifyLine_keeps s).2.trans hqueue
  obtain ⟨t, hrun, hfg', hscan⟩ := passRun_step hready hqueue hfg (onlyScan_classifyLine s)
    (classifyLine_inRewriter s) (exec_srstart_of_attached hready.inited hqueue hfg)
  rw [hqueue'] at hrun
  exact ⟨t, hrun, hfg', by rw [hscan, ← hqueue']⟩

theorem passRun_readByte (hfg : s.fg = .srRead) (hend : atEnd s s.scan.pos.toNat = false) :
    ∃ t, PassRun s (markedBytes s.scan.txmark [lbRead s s.scan.pos.toNat]) t ∧
      t.fg = (if lbRead s s.scan.pos.toNat = chLF then .srStart else .srRead) ∧
      t.scan = { s.scan with pos := s.scan.pos + 1#16 } := by
  have hread := readByte_of_byte hend hqueue
  obtain ⟨t, hrun, hfg', hscan⟩ := passRun_step hready hqueue hfg (onlyScan_readByte s)
    (readByte_inRewriter (by rw [hfg]; rfl)) (exec_srread_of_attached hready.inited hqueue hfg)
  rw [hread] at hrun hfg' hscan
  refine ⟨t, hrun, ?_, ?_⟩
  · rw [hfg', State.withFg_fg, hfg]
  · rw [hscan, ← hqueue]; rfl

theorem passRun_readEnd (hfg : s.fg = .srRead) (hend : atEnd s s.scan.pos.toNat = true) :
    ∃ t, PassRun s [] t ∧ t.fg = .srStart ∧ t.scan = s.scan := by
  have hexec := exec_srread_of_attached hready.inited hqueue hfg
  rw [readByte_of_atEnd hend] at hexec
  obtain ⟨t, hrun, hfg', hscan⟩ := passRun_step (u := s.withFg .srStart) hready hqueue hfg rfl rfl hexec
  rw [State.withFg_scan, hqueue] at hrun
  exact ⟨t, hrun, hfg', by rw [hscan, ← hqueue]; rfl⟩

theorem passRun_parseByte (hfg : s.fg = .srParse) (hend : atEnd s s.scan.pos.toNat = false) {c : Byte}
    (hbyte : lbRead s s.scan.pos.toNat = c) (hstar : c ≠ chStar) {bs : List Byte}
    (hbs : bs = emittedFor (padAt s (fieldAfter s.scan.field c) s.scan.pos.toNat) c) :
    ∃ t, PassRun s bs t ∧ t.fg = .srParse ∧
      t.scan = { s.scan with field := fieldAfter s.scan.field c, ck := s.scan.ck ^^^ foldChecksum bs,
                             pos := s.scan.pos + 1#16 } := by
  subst hbyte hbs
  have hparse := (parseStep_of_byte hend hstar).trans (parseByte_eq hstar)
  have hfgParse : (parseStep s).fg = .srParse := by rw [hparse]; exact hfg
  obtain ⟨t, hrun, hfg', hscan⟩ := passRun_step hready hqueue hfg (onlyScan_parseStep s) (by rw [hfgParse]; rfl)
    (exec_srparse_of_attached hready.inited hqueue hfg)
  rw [hparse] at hrun hscan
  exact ⟨t, hrun, hfg'.trans hfgParse, by rw [hscan, ← hqueue]; rfl⟩

theorem passRun_star (hfg : s.fg = .srParse) (hend : atEnd s s.scan.pos.toNat = false)
    (hstar : lbRead s s.scan.pos.toNat = chStar) :
    ∃ t, PassRun s (starBytes s.par ++ trailer s.scan.ck) t ∧ t.fg = .srStart ∧
      t.scan.pos = s.scan.pos + 1#16 + BitVec.ofNat 16 s.par.skip := by
  have hexec := exec_srparse_of_attached hready.inited hqueue hfg
  rw [parseStep_of_star hend hstar] at hexec
  obtain ⟨t, hrun, hfg', hscan⟩ :=
    passRun_step (u := finishRewrite (passStar s)) hready hqueue hfg rfl rfl hexec
  have hemitted : (finishRewrite (passStar s)).scan.emitq = starBytes s.par ++ trailer s.scan.ck := by
    simp [finishRewrite, passStar, starBytes, hqueue]
  rw [hemitted] at hrun
  exact ⟨t, hrun, hfg', by rw [hscan]; rfl⟩

/-! ### A line -/

/-- The bytes of a line before its end are passed one by one (R183). -/
theorem passRun_readBody (body : List Byte) (hwidth : s.par.lineCap ≤ 65536) (hfg : s.fg = .srRead)
    (hbody : StandsBefore s chLF s.scan.pos.toNat body) :
    ∃ t, PassRun s (markedBytes s.scan.txmark body) t ∧ t.fg = .srRead ∧ t.scan.txmark = s.scan.txmark ∧
      t.scan.pos.toNat = s.scan.pos.toNat + body.length := by
  induction body generalizing s with
  | nil => exact ⟨s, by simpa [markedBytes] using PassRun.refl hready hqueue, hfg, rfl, rfl⟩
  | cons c cs ih =>
    obtain ⟨hc, hLF, hend, hrest⟩ := hbody.uncons
    obtain ⟨t, hrun, hfg', hscan⟩ := passRun_readByte hready hqueue hfg hend
    rw [hc] at hrun hfg'
    have hroom := hrest.room
    have hpos : t.scan.pos.toNat = s.scan.pos.toNat + 1 := by rw [hscan]; exact toNat_next (by omega)
    have hmark : t.scan.txmark = s.scan.txmark := by rw [hscan]
    obtain ⟨u, hrun', hfg'', hmark', hpos'⟩ := ih hrun.ready hrun.queue (by rwa [hrun.par])
      (hfg'.trans (if_neg hLF)) (by rw [hpos]; exact hrun.standsBefore hrest)
    refine ⟨u, ?_, hfg'', hmark'.trans hmark, ?_⟩
    · have hboth := hrun.trans hrun'
      rwa [hmark, markedBytes_append] at hboth
    · rw [hpos', hpos, List.length_cons]; omega

end

/-- How a line ends behind its bytes: a line feed below the boundary, or the boundary itself (R183). -/
def LineEnds (s : State) (p : Nat) (ending : List Byte) : Prop :=
  (ending = [chLF] ∧ lbRead s p = chLF ∧ atEnd s p = false) ∨ (ending = [] ∧ atEnd s p = true)

/-- A whole line is passed: nothing of it is transmitted, or all of it (R195). -/
theorem passRun_line {s : State} {body ending : List Byte} {mark : Bool} (hready : PassReady s)
    (hqueue : s.scan.emitq = []) (hfg : s.fg = .srStart) (hwidth : s.par.lineCap ≤ 65536)
    (hclass : classifyLine s = (s.withScan { s.scan with txmark := mark }).withFg .srRead)
    (hbody : StandsBefore s chLF s.scan.pos.toNat body)
    (hends : LineEnds s (s.scan.pos.toNat + body.length) ending) :
    ∃ t, PassRun s (markedBytes mark (body ++ ending)) t ∧ t.fg = .srStart ∧
      t.scan.pos.toNat = s.scan.pos.toNat + body.length + ending.length := by
  obtain ⟨t, hstart, hfgT, hscanT⟩ := passRun_classify hready hqueue hfg
  rw [hclass] at hfgT hscanT
  have hposT : t.scan.pos = s.scan.pos := by rw [hscanT]; rfl
  obtain ⟨u, hread, hfgU, hmarkU, hposU⟩ := passRun_readBody hstart.ready hstart.queue body (by rwa [hstart.par]) hfgT
    (by rw [hposT]; exact hstart.standsBefore hbody)
  rw [hposT] at hposU
  have hmarkT : t.scan.txmark = mark := by rw [hscanT]; rfl
  rw [hmarkT] at hread hmarkU
  have hpassed := hstart.trans hread
  rw [List.nil_append] at hpassed
  rw [LineEnds, ← hpassed.atEnd_eq, ← hpassed.lbRead_eq, ← hposU] at hends
  obtain ⟨rfl, hLF, hend⟩ | ⟨rfl, hend⟩ := hends
  · obtain ⟨v, hlast, hfgV, hscanV⟩ := passRun_readByte hpassed.ready hpassed.queue hfgU hend
    rw [hLF] at hlast hfgV
    rw [hmarkU] at hlast
    refine ⟨v, markedBytes_append mark _ _ ▸ hpassed.trans hlast, hfgV, ?_⟩
    have hnext := atEnd_eq_false (Bool.eq_false_iff.mp hend)
    rw [hpassed.par] at hnext
    rw [hscanV, ← hposU]
    exact toNat_next (by omega)
  · obtain ⟨v, hlast, hfgV, hscanV⟩ := passRun_readEnd hpassed.ready hpassed.queue hfgU hend
    have hrun := hpassed.trans hlast
    rw [List.append_nil] at hrun
    exact ⟨v, by rwa [List.append_nil], hfgV, by rw [hscanV]; exact hposU⟩

/-! ### A sentence -/

theorem rewrittenBody_cons (s : State) (p : Nat) (field : Word) (c : Byte) (cs : List Byte) :
    rewrittenBody s p field (c :: cs) =
      emittedFor (padAt s (fieldAfter field c) p) c ++ rewrittenBody s (p + 1) (fieldAfter field c) cs := rfl

/-- The bytes of a sentence before its `*` are rewritten one by one, and the checksum folds what is transmitted
(R184, R190). -/
theorem passRun_parseBody (body : List Byte) {s : State} (hready : PassReady s) (hqueue : s.scan.emitq = [])
    (hwidth : s.par.lineCap ≤ 65536) (hfg : s.fg = .srParse)
    (hbody : StandsBefore s chStar s.scan.pos.toNat body) :
    ∃ t, PassRun s (rewrittenBody s s.scan.pos.toNat s.scan.field body) t ∧ t.fg = .srParse ∧
      t.scan.ck = s.scan.ck ^^^ foldChecksum (rewrittenBody s s.scan.pos.toNat s.scan.field body) ∧
      t.scan.pos.toNat = s.scan.pos.toNat + body.length := by
  induction body generalizing s with
  | nil => exact ⟨s, .refl hready hqueue, hfg, BitVec.xor_zero.symm, rfl⟩
  | cons c cs ih =>
    obtain ⟨hc, hstar, hend, hrest⟩ := hbody.uncons
    obtain ⟨t, hrun, hfg', hscan⟩ := passRun_parseByte hready hqueue hfg hend hc hstar rfl
    have hroom := hrest.room
    have hpos : t.scan.pos.toNat = s.scan.pos.toNat + 1 := by rw [hscan]; exact toNat_next (by omega)
    obtain ⟨u, hrun', hfg'', hck, hpos'⟩ := ih hrun.ready hrun.queue (by rwa [hrun.par]) hfg'
      (by rw [hpos]; exact hrun.standsBefore hrest)
    rw [hrun.rewrittenBody_eq, hpos] at hrun' hck
    simp only [hscan] at hrun' hck
    rw [rewrittenBody_cons, foldChecksum_append, ← BitVec.xor_assoc]
    exact ⟨u, hrun.trans hrun', hfg'', hck, by rw [hpos', hpos, List.length_cons]; omega⟩

/-- A whole sentence is rewritten: its bytes before the `*`, then what `Finish` emits (R191). -/
theorem passRun_sentence {s : State} {body : List Byte} (hready : PassReady s) (hqueue : s.scan.emitq = [])
    (hfg : s.fg = .srStart) (hwidth : s.par.lineCap + s.par.skip ≤ 65536)
    (hclass : classifyLine s = (s.withScan { s.scan with field := 0#16, ck := 0#8 }).withFg .srParse)
    (hbody : StandsBefore s chStar s.scan.pos.toNat body) (hstar : lbRead s (s.scan.pos.toNat + body.length) = chStar)
    (hend : atEnd s (s.scan.pos.toNat + body.length) = false) {out : List Byte}
    (hout : out = rewrittenBody s s.scan.pos.toNat 0#16 body) :
    ∃ t, PassRun s (out ++ (starBytes s.par ++ trailer (foldChecksum out))) t ∧ t.fg = .srStart ∧
      t.scan.pos.toNat = s.scan.pos.toNat + body.length + 1 + s.par.skip := by
  subst hout
  obtain ⟨t, hclassified, hfgT, hscanT⟩ := passRun_classify hready hqueue hfg
  rw [hclass] at hfgT hscanT
  obtain ⟨hposT, hfieldT, hckT⟩ : t.scan.pos = s.scan.pos ∧ t.scan.field = 0#16 ∧ t.scan.ck = 0#8 := by
    rw [hscanT]; exact ⟨rfl, rfl, rfl⟩
  obtain ⟨u, hparsed, hfgU, hckU, hposU⟩ := passRun_parseBody body hclassified.ready hclassified.queue
    (by rw [hclassified.par]; omega) hfgT (by rw [hposT]; exact hclassified.standsBefore hbody)
  rw [hclassified.rewrittenBody_eq, hposT, hfieldT] at hparsed hckU
  rw [hckT, BitVec.zero_xor] at hckU
  rw [hposT] at hposU
  have hrun := hclassified.trans hparsed
  rw [List.nil_append] at hrun
  obtain ⟨v, hfinished, hfgV, hposV⟩ := passRun_star hrun.ready hrun.queue hfgU
    (by rwa [hrun.atEnd_eq, hposU]) (by rwa [hrun.lbRead_eq, hposU])
  rw [hrun.par, hckU] at hfinished
  rw [hrun.par] at hposV
  have hroom := atEnd_eq_false (Bool.eq_false_iff.mp hend)
  have hnext := toNat_next (w := u.scan.pos) (by omega)
  exact ⟨v, hrun.trans hfinished, hfgV, by rw [hposV, toNat_skip (by omega), hnext, hposU]⟩

end Sys2Proof.Machine

namespace Sys2Proof.Proofs

open Sys2Proof.Machine

/-- Settles O40: the first byte of the line is below the boundary, so SRSTART classifies it, and SRREAD passes the line
to its end (`passRun_line`), with `txmark` as classified. -/
theorem lineSuppressedOrPassedThrough : Obligations.LineSuppressedOrPassedThrough := by
  unfold Obligations.LineSuppressedOrPassedThrough
  intro s body ending hs hready hfg hqueue hplain hslice hending
  obtain ⟨-, -, -, -, -, -, hcap⟩ := Config.sizesOk_iff.mp hs.sizes
  obtain ⟨hbytes, hlast⟩ := lbSlice_eq_append_iff.mp hslice
  have hroom : s.scan.pos.toNat + body.length + 1 ≤ s.par.lineCap := by
    obtain ⟨-, -, h⟩ | ⟨-, -, h, -⟩ := hending
    · omega
    · exact h
  have hends : LineEnds s (s.scan.pos.toNat + body.length) ending := by
    obtain ⟨rfl, hsent, h⟩ | ⟨rfl, -, -, hend⟩ := hending
    · have hLF := (lbSlice_eq_cons_iff.mp hlast).1
      exact .inl ⟨rfl, hLF, atEnd_eq_false_of (by omega) (by rw [hLF]; exact hsent.symm)⟩
    · exact .inr ⟨rfl, hend⟩
  have hbody : StandsBefore s chLF s.scan.pos.toNat body := ⟨hbytes, hplain, hroom⟩
  have hstart : atEnd s s.scan.pos.toNat = false := by
    refine hbody.atEnd_eq_false ?_
    obtain ⟨-, -, hend⟩ | ⟨hnone, -⟩ := hends
    · exact .inr hend
    · obtain ⟨hLF, -⟩ | ⟨-, hne, -⟩ := hending
      · exact absurd (hLF.symm.trans hnone) (List.cons_ne_nil _ _)
      · exact .inl hne
  have hline {mark : Bool} (hclass : classifyLine s = (s.withScan { s.scan with txmark := mark }).withFg .srRead) :=
    passRun_line hready hqueue hfg (by omega) hclass hbody hends
  refine ⟨fun hsup => ?_, fun hsup htgt => ?_⟩
  · obtain ⟨t, ⟨⟨n, hn⟩, -, -, hlog, -, hqueue'⟩, hfg', hpos⟩ := hline (classifyLine_of_suppressed hstart hsup)
    exact ⟨n, t, hn, hfg', hqueue', hpos, by simpa [markedBytes] using hlog⟩
  · obtain ⟨t, ⟨⟨n, hn⟩, -, -, hlog, -, hqueue'⟩, hfg', hpos⟩ := hline (classifyLine_of_default hstart hsup htgt)
    exact ⟨n, t, hn, hfg', hqueue', hpos, by simpa [markedBytes] using hlog⟩

/-- Settles O41: SRSTART enters the rewrite with checksum and field 0, SRPARSE rewrites the bytes before the `*`, and
`Finish` transmits the rest and skips (`passRun_sentence`). -/
theorem sentenceIsRewritten : Obligations.SentenceIsRewritten := by
  unfold Obligations.SentenceIsRewritten
  intro s body out hs hready hfg hqueue hroom hslice hplain hsent hsup htgt hout
  obtain ⟨-, -, -, -, -, -, hwidth⟩ := Config.sizesOk_iff.mp hs.sizes
  obtain ⟨hbytes, hlast⟩ := (lbSlice_eq_append_iff (cs := [chStar])).mp hslice
  have hstar := (lbSlice_eq_cons_iff.mp hlast).1
  have hend : atEnd s (s.scan.pos.toNat + body.length) = false :=
    atEnd_eq_false_of (by omega) (by rw [hstar]; exact hsent.symm)
  have hbody : StandsBefore s chStar s.scan.pos.toNat body := ⟨hbytes, hplain, by omega⟩
  have hclass := classifyLine_of_target (hbody.atEnd_eq_false (.inr hend)) hsup htgt
  obtain ⟨t, ⟨⟨n, hn⟩, -, hbuf, hlog, -, hqueue'⟩, hfg', hpos⟩ :=
    passRun_sentence hready hqueue hfg hwidth hclass hbody hstar hend hout
  refine ⟨n, t, hn, hfg', hqueue', ?_, hpos, hbuf⟩
  rw [hlog, ← List.append_assoc, ← List.append_assoc]
  rfl

end Sys2Proof.Proofs
end

section
/-! PROOFS. A pass ends (spec 45_sentence_rewriter R196): the work left in a pass, which every foreground step
lessens. -/

namespace Sys2Proof.Machine

/-! ### The work left -/

/-- A bound on the foreground steps before `SR_End` for scanning the line from cursor `p` in control state `f`. A byte
below the boundary costs at most six: SRSTART, SRPARSE at a `*`, and four frames. -/
def scanWork (s : State) (f : FgState) (p : Nat) : Nat :=
  match f with
  | .srStart => if atEnd s p then 1 else 6 * (s.par.lineCap - (p + 1)) + 6
  | .srRead | .srParse => 6 * (s.par.lineCap - (p + 1)) + 5
  | .srEnd | .laIdle | .laAcc => 0

/-- The same for a state: a frame for each byte of the queue, and the scanning. -/
def passWork (s : State) : Nat := s.scan.emitq.length + scanWork s s.fg s.scan.pos.toNat

theorem scanWork_le (s : State) (f : FgState) (p : Nat) :
    scanWork s f p ≤ 6 * (s.par.lineCap - (p + 1)) + 6 := by
  cases f with
  | srStart => rw [scanWork]; split <;> omega
  | _ => simp [scanWork]

theorem scanWork_of_scanning {f : FgState} (hf : f = .srRead ∨ f = .srParse) (s : State) (p : Nat) :
    scanWork s f p = 6 * (s.par.lineCap - (p + 1)) + 5 := by
  obtain rfl | rfl := hf <;> rfl

/-- The parameters and the LineBuffer decide the work of a scan. -/
theorem OnlyScan.passWork_eq {s u : State} (h : OnlyScan s u) :
    passWork u = u.scan.emitq.length + scanWork s u.fg u.scan.pos.toNat := by
  rw [h]; rfl

/-- In a rewriter's state no work is left at `SR_End` with an empty queue only. -/
theorem srEnd_of_passWork_eq_zero {s : State} (hrewriter : s.fg.inRewriter = true) (h : passWork s = 0) :
    s.fg = .srEnd ∧ s.scan.emitq = [] := by
  obtain ⟨hqueue, hscan⟩ := Nat.add_eq_zero_iff.mp h
  refine ⟨?_, List.length_eq_zero_iff.mp hqueue⟩
  cases hfg : s.fg with
  | srEnd => rfl
  | srStart => rw [hfg, scanWork] at hscan; split at hscan <;> cases hscan
  | srRead | srParse => simp [hfg, scanWork] at hscan
  | laIdle | laAcc => simp [hfg, FgState.inRewriter] at hrewriter

/-- A queue of at most four bytes, and the whole buffer to scan. -/
theorem passWork_le {s : State} (h : ScanOk s) (hcap : 1 ≤ s.par.lineCap) : passWork s ≤ 6 * s.par.lineCap + 4 := by
  have hscan := scanWork_le s s.fg s.scan.pos.toNat
  have hqueue := h.queue_le
  rw [passWork]
  omega

/-! ### Each step lessens it -/

theorem passWork_afterFrame_lt {s : State} (hqueue : s.scan.emitq ≠ []) : passWork (afterFrame s) < passWork s := by
  have hlength : s.scan.emitq.tail.length < s.scan.emitq.length := by
    rw [List.length_tail]
    exact Nat.sub_one_lt (mt List.length_eq_zero_iff.mp hqueue)
  exact Nat.add_lt_add_right hlength _

theorem classifyLine_scanning {s : State} (hend : atEnd s s.scan.pos.toNat = false) :
    (classifyLine s).fg = .srRead ∨ (classifyLine s).fg = .srParse := by
  obtain ⟨hend', -⟩ | ⟨-, ⟨mark, h⟩ | h⟩ := classifyLine_cases s
  · exact absurd (hend.symm.trans hend') Bool.false_ne_true
  · rw [h]; exact .inl rfl
  · rw [h]; exact .inr rfl

theorem passWork_classifyLine_lt {s : State} (hfg : s.fg = .srStart) : passWork (classifyLine s) < passWork s := by
  obtain ⟨hpos, hqueue⟩ := classifyLine_keeps s
  rw [(onlyScan_classifyLine s).passWork_eq, hpos, hqueue, passWork, hfg]
  refine Nat.add_lt_add_left ?_ _
  cases hend : atEnd s s.scan.pos.toNat with
  | true => rw [classifyLine_of_atEnd hend]; simp [scanWork, hend]
  | false => rw [scanWork_of_scanning (classifyLine_scanning hend)]; simp [scanWork, hend]

section
variable {s u : State} (hfg : s.fg = .srRead ∨ s.fg = .srParse) (hscan : OnlyScan s u)
include hfg hscan

/-- A step that takes the cursor on pays with the bytes it passes for at most four frames. -/
theorem passWork_lt_of_advance (hlength : u.scan.emitq.length ≤ 4) (hpos : s.scan.pos.toNat < u.scan.pos.toNat)
    (hroom : s.scan.pos.toNat + 1 < s.par.lineCap) : passWork u < passWork s := by
  have hwork := scanWork_le s u.fg u.scan.pos.toNat
  rw [hscan.passWork_eq, passWork, scanWork_of_scanning hfg]
  omega

/-- A step that leaves the line at the end of the scan has SRSTART to follow, and at most three frames. -/
theorem passWork_lt_of_stop (hlength : u.scan.emitq.length ≤ 3) (hstart : u.fg = .srStart)
    (hend : atEnd s u.scan.pos.toNat = true) : passWork u < passWork s := by
  have hwork : scanWork s .srStart u.scan.pos.toNat = 1 := if_pos hend
  rw [hscan.passWork_eq, hstart, hwork, passWork, scanWork_of_scanning hfg]
  omega

end

section
variable {s : State} (hqueue : s.scan.emitq = [])
include hqueue

theorem passWork_readByte_lt (hwidth : s.par.lineCap ≤ 65536) (hfg : s.fg = .srRead) :
    passWork (readByte s) < passWork s := by
  have hscan := onlyScan_readByte s
  cases hend : atEnd s s.scan.pos.toNat with
  | true =>
    rw [readByte_of_atEnd hend] at hscan ⊢
    exact passWork_lt_of_stop (.inl hfg) hscan (by simp [hqueue]) rfl hend
  | false =>
    have hroom := atEnd_eq_false (Bool.eq_false_iff.mp hend)
    rw [readByte_of_byte hend hqueue] at hscan ⊢
    refine passWork_lt_of_advance (.inl hfg) hscan ?_ ?_ hroom
    · simp only [State.withFg_scan, State.withScan_scan]; split <;> simp
    · exact Nat.lt_of_succ_le (toNat_next (by omega)).ge

/-- `Finish` at the boundary skips on, or stands at the end of the scan. -/
theorem passWork_finishRewrite_lt (hwidth : s.par.lineCap + s.par.skip ≤ 65536) (hfg : s.fg = .srParse)
    (hpos : s.scan.pos.toNat + 1 ≤ s.par.lineCap) (hend : atEnd s s.scan.pos.toNat = true) :
    passWork (finishRewrite s) < passWork s := by
  have hscan : OnlyScan s (finishRewrite s) := rfl
  have hlength : (finishRewrite s).scan.emitq.length = 3 := by simp [finishRewrite, hqueue, trailer]
  have hskip : (finishRewrite s).scan.pos.toNat = s.scan.pos.toNat + s.par.skip := toNat_skip (by omega)
  by_cases hadvance : 0 < s.par.skip ∧ s.scan.pos.toNat + 1 < s.par.lineCap
  · exact passWork_lt_of_advance (.inr hfg) hscan (by omega) (by omega) hadvance.2
  · refine passWork_lt_of_stop (.inr hfg) hscan hlength.le rfl ?_
    rw [hskip]
    obtain hzero | hlast : s.par.skip = 0 ∨ s.par.lineCap ≤ s.scan.pos.toNat + s.par.skip + 1 := by omega
    · rwa [hzero]
    · exact atEnd_iff.mpr (.inl hlast)

theorem passWork_parseStep_lt (hwidth : s.par.lineCap + s.par.skip ≤ 65536) (hfg : s.fg = .srParse)
    (hpos : s.scan.pos.toNat + 1 ≤ s.par.lineCap) : passWork (parseStep s) < passWork s := by
  have hscan := onlyScan_parseStep s
  cases hend : atEnd s s.scan.pos.toNat with
  | true => rw [parseStep_of_atEnd hend]; exact passWork_finishRewrite_lt hqueue hwidth hfg hpos hend
  | false =>
    have hroom := atEnd_eq_false (Bool.eq_false_iff.mp hend)
    have hnext : (s.scan.pos + 1#16).toNat = s.scan.pos.toNat + 1 := toNat_next (by omega)
    by_cases hstar : lbRead s s.scan.pos.toNat = chStar
    · rw [parseStep_of_star hend hstar] at hscan ⊢
      refine passWork_lt_of_advance (.inr hfg) hscan ?_ ?_ hroom
      · simp only [finishRewrite, passStar, State.withFg_scan, State.withScan_scan, hqueue]; split <;> simp [trailer]
      · show _ < (s.scan.pos + 1#16 + BitVec.ofNat 16 s.par.skip).toNat
        rw [toNat_skip (by omega)]; omega
    · rw [parseStep_of_byte hend hstar, parseByte_eq hstar] at hscan ⊢
      refine passWork_lt_of_advance (.inr hfg) hscan ?_ (Nat.lt_of_succ_le hnext.ge) hroom
      simp only [State.withScan_scan, emittedFor]; split <;> simp

end

/-! ### The pass -/

theorem Moves.of_execAll {is : List Instr} {s t : State} (h : execAll is s = .next t) : Moves s t := by
  induction is generalizing s with
  | nil =>
    obtain rfl : s = t := by simpa [execAll] using h
    exact .refl
  | cons i is ih =>
    cases hi : exec i s with
    | next u => rw [execAll_cons_of_next hi] at h; exact (Moves.of_exec hi).trans (ih h)
    | _ => simp [execAll, hi] at h

theorem Moves.of_passStep {s t : State} (h : passStep s = .next t) : Moves s t := by
  rw [passStep] at h
  split at h
  · cases h; exact .refl
  · exact Moves.of_execAll h

/-- A state of a pass, with the Transmitter idle. -/
structure InPass (s : State) : Prop where
  inv : Inv s
  ready : PassReady s
  rewriter : s.fg.inRewriter = true

section
variable {s : State} (h : InPass s)
include h

theorem InPass.scan_step {u : State} {f : FgState} (hqueue : s.scan.emitq = []) (hfg : s.fg = f) (hscan : OnlyScan s u)
    (hexec : exec f.operation s = .next (u.withOut .unit)) (hrewriter : u.fg.inRewriter = true)
    (hwork : passWork u < passWork s) : ∃ t, passStep s = .next t ∧ InPass t ∧ passWork t < passWork s := by
  have hstep := (passStep_of_fg hqueue hfg).trans hexec
  obtain ⟨hinit, hcfg, hidle, hdisarmed⟩ := hscan.passReady h.ready
  exact ⟨_, hstep, ⟨(Moves.of_passStep hstep).inv h.inv, ⟨hinit, hcfg, hidle, hdisarmed⟩, hrewriter⟩, hwork⟩

/-- While work is left a foreground step is possible, and lessens it. -/
theorem InPass.step (hwork : passWork s ≠ 0) :
    ∃ t, passStep s = .next t ∧ InPass t ∧ passWork t < passWork s := by
  by_cases hqueue : s.scan.emitq = []
  case neg =>
    have hstep := passStep_of_queue h.ready h.rewriter hqueue
    exact ⟨_, hstep, ⟨(Moves.of_passStep hstep).inv h.inv, passReady_afterFrame h.ready, h.rewriter⟩,
      passWork_afterFrame_lt hqueue⟩
  obtain ⟨-, -, -, -, -, -, hwidth⟩ := Config.sizesOk_iff.mp h.inv.sizes
  have hinit := h.ready.inited
  have hrewriter := h.rewriter
  cases hfg : s.fg with
  | laIdle | laAcc => simp [hfg, FgState.inRewriter] at hrewriter
  | srStart =>
    exact h.scan_step hqueue hfg (onlyScan_classifyLine s) (exec_srstart_of_attached hinit hqueue hfg)
      (classifyLine_inRewriter s) (passWork_classifyLine_lt hfg)
  | srRead =>
    exact h.scan_step hqueue hfg (onlyScan_readByte s) (exec_srread_of_attached hinit hqueue hfg)
      (readByte_inRewriter hrewriter) (passWork_readByte_lt hqueue (by omega) hfg)
  | srParse =>
    exact h.scan_step hqueue hfg (onlyScan_parseStep s) (exec_srparse_of_attached hinit hqueue hfg)
      (parseStep_inRewriter hrewriter)
      (passWork_parseStep_lt hqueue hwidth hfg (h.inv.scan.scanning (.inr hfg)))
  | srEnd => exact absurd (by simp [passWork, hqueue, hfg, scanWork]) hwork

end

/-- The work left bounds the steps to `SR_End`. -/
theorem InPass.reaches_srEnd {s : State} (h : InPass s) :
    ∃ n u, n ≤ passWork s ∧ passSteps n s = .next u ∧ InPass u ∧ u.fg = .srEnd ∧ u.scan.emitq = [] := by
  induction hw : passWork s using Nat.strong_induction_on generalizing s with
  | _ w ih =>
    by_cases hzero : passWork s = 0
    · obtain ⟨hfg, hqueue⟩ := srEnd_of_passWork_eq_zero h.rewriter hzero
      exact ⟨0, s, Nat.zero_le _, rfl, h, hfg, hqueue⟩
    · obtain ⟨t, hstep, ht, hlt⟩ := h.step hzero
      obtain ⟨n, u, hn, hrun, hend⟩ := ih _ (hw ▸ hlt) ht rfl
      refine ⟨1 + n, u, by omega, ?_, hend⟩
      rw [passSteps_add_of_next n ((passSteps_one s).trans hstep), hrun]

end Sys2Proof.Machine

namespace Sys2Proof.Proofs

open Sys2Proof.Machine

/-- Settles O42: every foreground step lessens `passWork`, which starts at six steps a cell and four frames at most; at
`SR_End` one SREND more returns to `LA_Idle`. -/
theorem passTerminates : Obligations.PassTerminates := by
  unfold Obligations.PassTerminates
  intro s hs hready hrewriter
  obtain ⟨-, hcap, -⟩ := Config.sizesOk_iff.mp hs.sizes
  obtain ⟨n, u, hn, hrun, hu, hfg, hqueue⟩ := InPass.reaches_srEnd ⟨hs, hready, hrewriter⟩
  have hbound := passWork_le hs.scan (by omega)
  have hlast := (passStep_of_fg hqueue hfg).trans (exec_srend_of_attached hu.ready.inited hqueue hfg)
  refine ⟨n, u, (u.withFg .laIdle).withOut .unit, by omega, hrun, hfg, hqueue, ?_, rfl, hqueue⟩
  rw [passSteps_add_of_next 1 hrun, passSteps_one, hlast]

end Sys2Proof.Proofs
end

section
/-! PROOFS. The transfers of control of the sequencer (spec 49_operation_laws R284): only the operation of a control
state moves `fg.state`, from that state, along the transition table. -/

namespace Sys2Proof.Machine

/-! ### Operations that leave the control state -/

theorem fg_eq_of_dequeue {s t : State} {r : Option Byte} (h : dequeue s = .ok (r, t)) : t.fg = s.fg := by
  rw [dequeue_eq_withRing h]; rfl

theorem fg_eq_of_exec_ring {i : Instr} {s t : State} (hi : i = .deq ∨ i = .rxpoll ∨ i = .isempty ∨ ∃ b, i = .enq b)
    (h : exec i s = .next t) : t.fg = s.fg := by
  obtain ⟨r, o, rfl⟩ := exec_ring_operation_eq hi h
  rfl

theorem fg_eq_of_exec_transmit {i : Instr} {s t : State} (hi : i = .txtick ∨ ∃ b, i = .txbyte b ∨ i = .begintx b)
    (h : exec i s = .next t) : t.fg = s.fg := by
  rw [exec_transmit_operation_eq hi h]; rfl

theorem fg_eq_of_exec_receive {i : Instr} {s t : State} (hi : i = .edge ∨ i = .rxtick ∨ ∃ l, i = .line l)
    (h : exec i s = .next t) : t.fg = s.fg := by
  obtain ⟨l, r, o, -, rfl⟩ | ⟨-, -, b, ok, u, r, o, hput, rfl⟩ := exec_receive_cases hi h
  · rfl
  · rw [enqueue_eq_withRing hput]; rfl

/-- An operation that no control state has for its own leaves the control state; SREMIT is one of them (R187). -/
theorem fg_eq_of_exec {i : Instr} {s t : State} (hi : ∀ f : FgState, i ≠ f.operation) (h : exec i s = .next t) :
    t.fg = s.fg := by
  cases i with
  | init => obtain ⟨-, rfl⟩ := execInit_next.mp h; rfl
  | setbaud => obtain ⟨-, rfl⟩ := execSetbaud_next.mp h; rfl
  | txbyte b => exact fg_eq_of_exec_transmit (.inr ⟨b, .inl rfl⟩) h
  | begintx b => exact fg_eq_of_exec_transmit (.inr ⟨b, .inr rfl⟩) h
  | txtick => exact fg_eq_of_exec_transmit (.inl rfl) h
  | edge => exact fg_eq_of_exec_receive (.inl rfl) h
  | rxtick => exact fg_eq_of_exec_receive (.inr (.inl rfl)) h
  | line l => exact fg_eq_of_exec_receive (.inr (.inr ⟨l, rfl⟩)) h
  | deq => exact fg_eq_of_exec_ring (.inl rfl) h
  | rxpoll => exact fg_eq_of_exec_ring (.inr (.inl rfl)) h
  | isempty => exact fg_eq_of_exec_ring (.inr (.inr (.inl rfl))) h
  | enq b => exact fg_eq_of_exec_ring (.inr (.inr (.inr ⟨b, rfl⟩))) h
  | sremit => rw [exec_sremit_eq h]; rfl
  | laidle => exact absurd rfl (hi .laIdle)
  | laacc => exact absurd rfl (hi .laAcc)
  | srstart => exact absurd rfl (hi .srStart)
  | srread => exact absurd rfl (hi .srRead)
  | srparse => exact absurd rfl (hi .srParse)
  | srend => exact absurd rfl (hi .srEnd)

/-! ### Operations that move it -/

theorem endCycle_fg (s : State) : (endCycle s).fg = .srStart ∨ (endCycle s).fg = s.fg := by
  obtain ⟨-, h⟩ | ⟨-, h⟩ := endCycle_cases s <;> rw [h]
  · exact .inl rfl
  · exact .inr rfl

/-- LAIDLE leaves the control state, or the first byte of a cycle leads to `LA_Acc` (R171). -/
theorem fg_of_execLaidle {s t : State} (h : execLaidle s = .next t) :
    t.fg = s.fg ∨ (s.fg = .laIdle ∧ t.fg = .laAcc) := by
  obtain ⟨-, ⟨-, rfl⟩ | ⟨hop, r, u, hpoll, ⟨-, rfl⟩ | ⟨b, v, -, -, rfl⟩⟩⟩ := execLaidle_next.mp h
  · exact .inl rfl
  · exact .inl (fg_eq_of_dequeue hpoll :)
  · exact .inr ⟨(fg_of_attachedOp (f := .laIdle) hop).1, rfl⟩

/-- LAACC leaves the control state, or the end of the cycle leads to `SR_Start` (R172, R173). -/
theorem fg_of_execLaacc {s t : State} (h : execLaacc s = .next t) :
    t.fg = s.fg ∨ (s.fg = .laAcc ∧ t.fg = .srStart) := by
  obtain ⟨-, ⟨-, rfl⟩ | ⟨hop, r, u, hpoll, h⟩⟩ := execLaacc_next.mp h
  · exact .inl rfl
  obtain ⟨hfg, -⟩ := fg_of_attachedOp (f := .laAcc) hop
  have hend {v : State} (hv : v.fg = u.fg) : (endCycle v).fg = s.fg ∨ (s.fg = .laAcc ∧ (endCycle v).fg = .srStart) :=
    (endCycle_fg v).symm.imp (fun hkeep => (hkeep.trans hv).trans (fg_eq_of_dequeue hpoll)) (⟨hfg, ·⟩)
  obtain ⟨-, rfl⟩ | ⟨b, v, -, hstore, rfl⟩ := h
  · exact hend rfl
  · obtain ⟨-, -, rfl⟩ := storeByte_ok.mp hstore
    exact hend rfl

/-- An operation of the rewriter's states follows the table where it is attached, and holds elsewhere (R112). -/
theorem fg_of_attached {s t u : State} {f : FgState}
    (hmove : s.fg = f → u.fg = s.fg ∨ u.fg ∈ sequencerMoves f f.operation)
    (h : s.inited = true ∧ ((attachedOp s = some f.operation ∧ u.withOut .unit = t) ∨
      (attachedOp s ≠ some f.operation ∧ s.withOut .held = t))) :
    t.fg = s.fg ∨ t.fg ∈ sequencerMoves s.fg f.operation := by
  obtain ⟨-, ⟨hop, rfl⟩ | ⟨-, rfl⟩⟩ := h
  · obtain ⟨rfl, -⟩ := fg_of_attachedOp hop
    exact hmove rfl
  · exact .inl rfl

/-- The operation of a control state leaves `fg.state`, or takes it along the table (R284). -/
theorem fg_of_exec_operation {f : FgState} {s t : State} (h : exec f.operation s = .next t) :
    t.fg = s.fg ∨ t.fg ∈ sequencerMoves s.fg f.operation := by
  cases f with
  | laIdle =>
    refine (fg_of_execLaidle h).imp_right fun ⟨hfg, hacc⟩ => ?_
    rw [hfg, hacc]; decide
  | laAcc =>
    refine (fg_of_execLaacc h).imp_right fun ⟨hfg, hstart⟩ => ?_
    rw [hfg, hstart]; decide
  | srStart =>
    refine fg_of_attached (f := .srStart) (fun _ => .inr ?_) (execSrstart_next.mp h)
    obtain hfg | hfg | hfg := classifyLine_fg s <;> rw [hfg] <;> decide
  | srRead =>
    refine fg_of_attached (f := .srRead) (fun _ => (readByte_fg s).symm.imp_right fun hstart => ?_)
      (execSrread_next.mp h)
    rw [hstart]; decide
  | srParse =>
    refine fg_of_attached (f := .srParse) (fun _ => (parseStep_fg s).symm.imp_right fun hstart => ?_)
      (execSrparse_next.mp h)
    rw [hstart]; decide
  | srEnd => exact fg_of_attached (f := .srEnd) (fun _ => .inr (List.mem_singleton_self _)) (execSrend_next.mp h)

end Sys2Proof.Machine

namespace Sys2Proof.Proofs

open Sys2Proof.Machine

/-- Settles O44: an operation is a control state's own, which follows the table, or it leaves the control state. -/
theorem sequencerTransitions : Obligations.SequencerTransitions := by
  unfold Obligations.SequencerTransitions
  intro i s t h
  by_cases hi : ∃ f : FgState, i = f.operation
  · obtain ⟨f, rfl⟩ := hi
    exact fg_of_exec_operation h
  · exact .inl (fg_eq_of_exec (not_exists.mp hi) h)

end Sys2Proof.Proofs
end

section
/-! PROOFS. The hex digits of the trailer (spec 30_encoding R102, 49_operation_laws R282): the two ranges of the table,
and the nibbles of the checksum as quotient and remainder by 16. -/

namespace Sys2Proof.Machine

theorem hexDigit_toNat_of_lt {n : BitVec 4} (h : n.toNat < 10) : (hexDigit n).toNat = 0x30 + n.toNat := by
  rw [hexDigit, if_pos h, BitVec.toNat_ofNat]
  omega

theorem hexDigit_toNat_of_ge {n : BitVec 4} (h : 10 ≤ n.toNat) : (hexDigit n).toNat = 0x41 + (n.toNat - 10) := by
  have hn := n.isLt
  rw [hexDigit, if_neg h.not_gt, BitVec.toNat_ofNat]
  omega

theorem highNibble_eq (ck : Byte) : ck.extractLsb' 4 4 = BitVec.ofNat 4 (ck.toNat / 16) := by
  rw [BitVec.extractLsb', Nat.shiftRight_eq_div_pow]

theorem lowNibble_eq (ck : Byte) : ck.extractLsb' 0 4 = BitVec.ofNat 4 (ck.toNat % 16) := by
  refine BitVec.eq_of_toNat_eq ?_
  rw [BitVec.extractLsb'_toNat, BitVec.toNat_ofNat, Nat.mod_mod, Nat.shiftRight_zero]

theorem trailer_eq (ck : Byte) :
    trailer ck = [hexDigit (BitVec.ofNat 4 (ck.toNat / 16)), hexDigit (BitVec.ofNat 4 (ck.toNat % 16)), 0x0D#8] := by
  rw [trailer, highNibble_eq, lowNibble_eq, chCR]

end Sys2Proof.Machine

namespace Sys2Proof.Proofs

open Sys2Proof.Machine

/-- Settles O36: the two ranges of the table, the nibbles by division, and the four values of R282 computed. -/
theorem hexDigitsOfTheTrailer : Obligations.HexDigitsOfTheTrailer := by
  unfold Obligations.HexDigitsOfTheTrailer
  exact ⟨fun n => ⟨hexDigit_toNat_of_lt, hexDigit_toNat_of_ge⟩, trailer_eq, rfl, rfl, rfl, rfl⟩

end Sys2Proof.Proofs
end


section
/-! PROOFS. Ownership by context (spec 60_exceptions R216, R230): the operations of the event context and of the
environment leave the foreground's state, and those of the foreground and the host, but INIT, leave the event side's. -/

namespace Sys2Proof.Machine

/-! ### The event context and the environment -/

/-- An enqueue, whatever becomes of the Receiver, leaves the foreground's state. -/
theorem foregroundUntouched_of_enqueue {s u : State} {b : Byte} {ok : Bool} (h : enqueue s b = .ok (ok, u))
    (r : Receiver) (o : Result) : ForegroundUntouched s ((u.withRx r).withOut o) := by
  obtain ⟨hhead, -⟩ := otherSlots_of_enqueue h
  obtain ⟨ring, rfl⟩ : ∃ ring, u = s.withRing ring := ⟨_, enqueue_eq_withRing h⟩
  exact ⟨rfl, rfl, hhead, rfl, rfl, rfl⟩

theorem foregroundUntouched_of_receive {i : Instr} {s t : State} (hi : i = .edge ∨ i = .rxtick ∨ ∃ l, i = .line l)
    (h : exec i s = .next t) : ForegroundUntouched s t := by
  obtain ⟨l, r, o, -, rfl⟩ | ⟨-, -, b, ok, u, r, o, hput, rfl⟩ := exec_receive_cases hi h
  · exact ⟨rfl, rfl, rfl, rfl, rfl, rfl⟩
  · exact foregroundUntouched_of_enqueue hput r o

theorem foregroundUntouched_of_exec {i : Instr} {s t : State} (hi : Agent.foreground ∉ i.agents)
    (h : exec i s = .next t) : ForegroundUntouched s t := by
  cases i with
  | txtick => rw [exec_transmit_operation_eq (.inl rfl) h]; exact ⟨rfl, rfl, rfl, rfl, rfl, rfl⟩
  | edge => exact foregroundUntouched_of_receive (.inl rfl) h
  | rxtick => exact foregroundUntouched_of_receive (.inr (.inl rfl)) h
  | line l => exact foregroundUntouched_of_receive (.inr (.inr ⟨l, rfl⟩)) h
  | enq b =>
    obtain ⟨ok, u, hput, rfl⟩ := execEnq_next.mp h
    exact foregroundUntouched_of_enqueue hput u.rx _
  | _ => simp [Instr.agents] at hi

/-! ### The foreground and the host -/

theorem eventUntouched_of_dequeue {s u : State} {r : Option Byte} (h : dequeue s = .ok (r, u)) (o : Result) :
    EventUntouched s (u.withOut o) := by
  obtain ⟨-, -, rfl⟩ | ⟨-, -, -, rfl⟩ := dequeue_ok.mp h <;> exact ⟨rfl, rfl, rfl, rfl⟩

theorem eventUntouched_of_load {i : Instr} {s t : State} (hi : ∃ b, i = .txbyte b ∨ i = .begintx b)
    (h : exec i s = .next t) : EventUntouched s t := by
  rw [exec_transmit_operation_eq (.inr hi) h]; exact ⟨rfl, rfl, rfl, rfl⟩

theorem eventUntouched_of_assembler {i : Instr} {s t : State} (hi : i = .laidle ∨ i = .laacc)
    (h : exec i s = .next t) : EventUntouched s t := by
  obtain ⟨u, pos, fg, o, hpoll, -, rfl⟩ := exec_assembler_cases hi h
  cases hpoll <;> exact ⟨rfl, rfl, rfl, rfl⟩

theorem eventUntouched_of_scanning {i : Instr} {s t : State} (hi : i ∈ [Instr.srstart, .srread, .srparse, .srend])
    (h : exec i s = .next t) : EventUntouched s t := by
  rw [exec_scanning_operation_eq hi h]; exact ⟨rfl, rfl, rfl, rfl⟩

theorem eventUntouched_of_exec {i : Instr} {s t : State} (hi : Agent.foreground ∈ i.agents)
    (hinit : ∀ a b, i ≠ .init a b) (h : exec i s = .next t) : EventUntouched s t := by
  cases i with
  | init a b => exact absurd rfl (hinit a b)
  | setbaud => obtain ⟨-, rfl⟩ := execSetbaud_next.mp h; exact ⟨rfl, rfl, rfl, rfl⟩
  | txbyte b => exact eventUntouched_of_load ⟨b, .inl rfl⟩ h
  | begintx b => exact eventUntouched_of_load ⟨b, .inr rfl⟩ h
  | rxpoll => obtain ⟨-, r, u, hpoll, rfl⟩ := execRxpoll_next.mp h; exact eventUntouched_of_dequeue hpoll _
  | deq => obtain ⟨r, u, hpoll, rfl⟩ := execDeq_next.mp h; exact eventUntouched_of_dequeue hpoll _
  | isempty => obtain rfl := execIsempty_next.mp h; exact ⟨rfl, rfl, rfl, rfl⟩
  | laidle => exact eventUntouched_of_assembler (.inl rfl) h
  | laacc => exact eventUntouched_of_assembler (.inr rfl) h
  | srstart => exact eventUntouched_of_scanning (by decide) h
  | srread => exact eventUntouched_of_scanning (by decide) h
  | srparse => exact eventUntouched_of_scanning (by decide) h
  | srend => exact eventUntouched_of_scanning (by decide) h
  | sremit => rw [exec_sremit_eq h]; exact ⟨rfl, rfl, rfl, rfl⟩
  | _ => simp [Instr.agents] at hi

end Sys2Proof.Machine

namespace Sys2Proof.Proofs

open Sys2Proof.Machine

/-- Settles O46: by the kinds of operation on each side; the ring is shared, an enqueue keeps its head and a poll its
slots and its tail. -/
theorem contextsKeepTheirOwnership : Obligations.ContextsKeepTheirOwnership := by
  unfold Obligations.ContextsKeepTheirOwnership
  exact fun i s t h => ⟨fun hi => foregroundUntouched_of_exec hi h, fun hi hinit => eventUntouched_of_exec hi hinit h⟩

end Sys2Proof.Proofs
end

section
/-! PROOFS. Two handlers that are due together (spec 60_exceptions R215): a receive handler neither reads nor writes the
Transmitter, so it commutes with the transmit tick. -/

namespace Sys2Proof.Machine

/-- An enqueue reads the ring and its capacity only. -/
theorem enqueue_congr {s t u : State} {b : Byte} {ok : Bool} (hring : s.ring = t.ring) (hpar : s.par = t.par)
    (h : enqueue s b = .ok (ok, u)) : enqueue t b = .ok (ok, t.withRing u.ring) := by
  rw [enqueue_ok] at h ⊢
  rw [← hring, ← hpar]
  obtain ⟨hfull, hok, rfl⟩ | ⟨hroom, htail, hok, rfl⟩ := h
  · exact .inl ⟨hfull, hok, by rw [hring]; rfl⟩
  · exact .inr ⟨hroom, htail, hok, rfl⟩

/-- RXTICK or EDGE that takes its step writes the ring and the Receiver, the same whatever stands in the Transmitter
and whatever the last result was. -/
theorem exec_receive_handler_eq {i : Instr} {s u : State} (hi : i = .rxtick ∨ i = .edge) (h : exec i s = .next u)
    (hout : u.out ≠ .held) :
    ∃ ring rx, u = ((s.withRing ring).withRx rx).withOut .unit ∧ ∀ v o,
      exec i ((s.withTx v).withOut o) = .next ((((s.withTx v).withRing ring).withRx rx).withOut .unit) := by
  obtain rfl | rfl := hi
  · obtain ⟨-, rfl⟩ | ⟨harmed, hbusy, hbits, rfl⟩ | ⟨harmed, hbusy, hbits, ok, w, hput, rfl⟩ := execRxtick_next.mp h
    · exact absurd rfl hout
    · exact ⟨s.ring, _, rfl, fun v o => execRxtick_next.mpr (.inr (.inl ⟨harmed, hbusy, hbits, rfl⟩))⟩
    · obtain ⟨ring, rfl⟩ : ∃ ring, w = s.withRing ring := ⟨_, enqueue_eq_withRing hput⟩
      refine ⟨ring, _, rfl, fun v o => ?_⟩
      have hput' := enqueue_congr (s := s) (t := (s.withTx v).withOut o) rfl rfl hput
      exact execRxtick_next.mpr (.inr (.inr ⟨harmed, hbusy, hbits, ok, _, hput', rfl⟩))
  · obtain ⟨-, rfl⟩ | ⟨henabled, hcfg, rfl⟩ := execEdge_next.mp h
    · exact absurd rfl hout
    · exact ⟨s.ring, _, rfl, fun v o => execEdge_next.mpr (.inr ⟨henabled, hcfg, rfl⟩)⟩

end Sys2Proof.Machine

namespace Sys2Proof.Proofs

open Sys2Proof.Machine

/-- Settles O47: the receive handler does the same before the transmit tick as after it, and the tick reads the
Transmitter, which the handler leaves. -/
theorem handlersCommute : Obligations.HandlersCommute := by
  unfold Obligations.HandlersCommute
  intro s t u i hi harmed htick h hout
  obtain ⟨-, rfl⟩ : s.tx.armed = true ∧ (s.withTx (s.tx.tick s.par)).withOut .unit = t :=
    (execTxtick_next.mp htick).resolve_left fun hdisarmed => by simp [harmed] at hdisarmed
  obtain ⟨ring, rx, rfl, hhandler⟩ := exec_receive_handler_eq hi h hout
  have hfirst : exec i s = .next (((s.withRing ring).withRx rx).withOut .unit) := hhandler s.tx s.out
  have hsecond : exec .txtick (((s.withRing ring).withRx rx).withOut .unit) =
      .next (((((s.withTx (s.tx.tick s.par)).withOut .unit).withRing ring).withRx rx).withOut .unit) :=
    exec_txtick_of_armed harmed
  rw [execAll_cons_of_next hfirst, execAll_cons_of_next hsecond, execAll]

end Sys2Proof.Proofs
end

section
/-! PROOFS. The silent conditions (spec 60_exceptions R200 to R204): which operations raise each of X1 to X4 and when, and
that they step. -/

namespace Sys2Proof.Machine

/-! ### Rates and conditions -/

@[simp] theorem raiseIf_eq_some {raised : Bool} {c d : Condition} :
    raiseIf raised c = some d ↔ raised = true ∧ c = d := by simp [raiseIf]

theorem unsupported_iff {c : Config} {rate : Nat} :
    unsupported c rate = true ↔ rate ∉ c.rateTable.map Prod.fst := by
  rw [unsupported, Option.isNone_iff_eq_none, List.lookup_eq_none_iff]
  constructor
  · intro h hmem
    obtain ⟨p, hp, rfl⟩ := List.mem_map.mp hmem
    simpa using h p hp
  · intro h p hp
    simpa using fun heq : rate = p.1 => h (heq ▸ List.mem_map_of_mem hp)

/-- An unsupported rate leaves its direction's configuration. -/
theorem resolveBoth_of_not_mem (s : State) (a b : Nat) :
    (a ∉ s.par.rateTable.map Prod.fst → (resolveBoth s a b).tx = s.cfg.tx) ∧
    (b ∉ s.par.rateTable.map Prod.fst → (resolveBoth s a b).rx = s.cfg.rx) :=
  ⟨fun ha => congrArg Prod.fst (resolveRate_of_not_mem ha _), fun hb => congrArg Prod.fst (resolveRate_of_not_mem hb _)⟩

theorem ringFull_iff {s : State} : ringFull s = true ↔ s.ring.count = s.par.ringCap := decide_eq_true_iff

/-! ### What raises a condition -/

section
variable {i : Instr} {s : State}

/-- X1 is raised by an enqueue on a full ring: ENQ, or the tick of the last bit (R201). -/
theorem receiveOverflow_cases (h : conditionOf i s = some .receiveOverflow) :
    s.ring.count = s.par.ringCap ∧ ((∃ b, i = .enq b) ∨
      (i = .rxtick ∧ s.rx.armed = true ∧ s.rx.busy = true ∧ 8 ≤ (s.rx.bits + 1#4).toNat)) := by
  cases i with
  | enq b => simpa [conditionOf, ringFull_iff] using h
  | rxtick =>
    simp only [conditionOf, raiseIf_eq_some, Bool.and_eq_true, decide_eq_true_eq, ringFull_iff] at h
    obtain ⟨⟨⟨⟨harmed, hbusy⟩, hbits⟩, hfull⟩, -⟩ := h
    exact ⟨hfull, .inr ⟨rfl, harmed, hbusy, hbits⟩⟩
  | _ => simp [conditionOf] at h

/-- X2 is raised by LAACC where it is attached and stores to the last cell before the sentinel's (R202). -/
theorem lineBufferOverflow_cases (h : conditionOf i s = some .lineBufferOverflow) :
    i = .laacc ∧ s.inited = true ∧ attachedOp s = some .laacc ∧ s.ring.count ≠ 0 ∧
      (s.buf.wr + 1#16).toNat + 1 = s.par.lineCap := by
  cases i with
  | laacc => simpa [conditionOf, and_assoc] using h
  | _ => simp [conditionOf] at h

/-- X3 is raised by SRPARSE where it is attached and the line has ended (R203). -/
theorem unterminatedSentence_cases (h : conditionOf i s = some .unterminatedSentence) :
    i = .srparse ∧ s.inited = true ∧ attachedOp s = some .srparse ∧ atEnd s s.scan.pos.toNat = true := by
  cases i with
  | srparse => simpa [conditionOf, and_assoc] using h
  | _ => simp [conditionOf] at h

/-- X4 is raised by INIT before it has run, or by SETBAUD after it, with a rate outside `RATES` (R204). -/
theorem unsupportedRate_cases (h : conditionOf i s = some .unsupportedRate) :
    ∃ a b, (a ∉ s.par.rateTable.map Prod.fst ∨ b ∉ s.par.rateTable.map Prod.fst) ∧
      ((i = .init a b ∧ s.inited = false) ∨ (i = .setbaud a b ∧ s.inited = true)) := by
  cases i with
  | init a b =>
    simp only [conditionOf, raiseIf_eq_some, Bool.and_eq_true, Bool.or_eq_true, unsupported_iff, Bool.not_eq_true'] at h
    obtain ⟨⟨hinit, hrates⟩, -⟩ := h
    exact ⟨a, b, hrates, .inl ⟨rfl, hinit⟩⟩
  | setbaud a b =>
    simp only [conditionOf, raiseIf_eq_some, Bool.and_eq_true, Bool.or_eq_true, unsupported_iff] at h
    obtain ⟨⟨hinit, hrates⟩, -⟩ := h
    exact ⟨a, b, hrates, .inr ⟨rfl, hinit⟩⟩
  | _ => simp [conditionOf] at h

/-! ### The step that raises it -/

theorem receiveOverflow_keeps_ring (h : conditionOf i s = some .receiveOverflow) :
    ∃ t, exec i s = .next t ∧ t.ring = s.ring := by
  obtain ⟨hfull, ⟨b, rfl⟩ | ⟨rfl, harmed, hbusy, hbits⟩⟩ := receiveOverflow_cases h
  · exact ⟨_, exec_enq_of_full b hfull, rfl⟩
  · exact ⟨_, execRxtick_next.mpr (.inr (.inr ⟨harmed, hbusy, hbits, _, _,
      enqueue_ok.mpr (.inl ⟨hfull, rfl, rfl⟩), rfl⟩)), rfl⟩

theorem lineBufferOverflow_hands_off (hs : Inv s) (h : conditionOf i s = some .lineBufferOverflow) :
    ∃ t, exec i s = .next t ∧ t.fg = .srStart ∧ t.buf.wr.toNat = s.par.lineCap - 1 := by
  obtain ⟨rfl, hinit, hop, hcount, hlast⟩ := lineBufferOverflow_cases h
  obtain ⟨hfg, hqueue⟩ := fg_of_attachedOp (f := .laAcc) hop
  obtain ⟨hroom, -⟩ := hs.line.accumulating hfg
  refine ⟨_, exec_laacc_of_nonempty hinit hqueue hfg hcount hs.ring.head_lt (by omega) (by omega), ?_⟩
  rw [endCycle, if_pos (cycleEnds_iff.mpr (.inl hlast))]
  exact ⟨rfl, Nat.eq_sub_of_add_eq hlast⟩

theorem unterminatedSentence_finishes (h : conditionOf i s = some .unterminatedSentence) :
    ∃ t, exec i s = .next t ∧ t.fg = .srStart ∧ t.scan.emitq = trailer s.scan.ck := by
  obtain ⟨rfl, hinit, hop, hend⟩ := unterminatedSentence_cases h
  obtain ⟨hfg, hqueue⟩ := fg_of_attachedOp (f := .srParse) hop
  refine ⟨_, exec_srparse_of_attached hinit hqueue hfg, ?_⟩
  rw [parseStep_of_atEnd hend, finishRewrite, hqueue]
  exact ⟨rfl, rfl⟩

theorem unsupportedRate_keeps_cfg (h : conditionOf i s = some .unsupportedRate) :
    ∃ (a b : Nat) (t : State), (i = .init a b ∨ i = .setbaud a b) ∧ exec i s = .next t ∧
      (a ∉ s.par.rateTable.map Prod.fst ∨ b ∉ s.par.rateTable.map Prod.fst) ∧
      (a ∉ s.par.rateTable.map Prod.fst → t.cfg.tx = s.cfg.tx) ∧
      (b ∉ s.par.rateTable.map Prod.fst → t.cfg.rx = s.cfg.rx) := by
  obtain ⟨a, b, hrates, ⟨rfl, hinit⟩ | ⟨rfl, hinit⟩⟩ := unsupportedRate_cases h
  · exact ⟨a, b, _, .inl rfl, exec_init_of_uninitialised a b hinit, hrates, resolveBoth_of_not_mem s a b⟩
  · exact ⟨a, b, _, .inr rfl, exec_setbaud_of_initialised a b hinit, hrates, resolveBoth_of_not_mem s a b⟩

end

end Sys2Proof.Machine

namespace Sys2Proof.Proofs

open Sys2Proof.Machine

/-- Settles O49: each condition tells the operation and its branch; only X2 needs the invariant, for the ranges of the
ring and the line. -/
theorem conditionsAreSilent : Obligations.ConditionsAreSilent := by
  unfold Obligations.ConditionsAreSilent
  exact fun i s hs => ⟨receiveOverflow_keeps_ring, lineBufferOverflow_hands_off hs, unterminatedSentence_finishes,
    unsupportedRate_keeps_cfg⟩

end Sys2Proof.Proofs
end

section
/-! PROOFS. The launch premises (spec 70_reset_and_hazards R242): reset and an INIT with two supported rates. -/

namespace Sys2Proof.Machine

/-- A listed rate resolves to an entry, also where the table lists it twice (R163). -/
theorem resolveRate_of_listed {c : Config} {rate : Nat} (h : rate ∈ c.rateTable.map Prod.fst)
    (previous : Option RateEntry) : ∃ e, resolveRate c rate previous = (some e, true) := by
  cases hlookup : c.rateTable.lookup rate with
  | none => exact absurd h (unsupported_iff.mp (by rw [unsupported, hlookup]; rfl))
  | some e => exact ⟨e, by rw [resolveRate, hlookup]⟩

end Sys2Proof.Machine

namespace Sys2Proof.Proofs

open Sys2Proof.Machine

/-- Settles O13: INIT's assignments and the reset values of the sequencer and the receive line; both rates resolve. -/
theorem launchAfterInit : Obligations.LaunchAfterInit := by
  unfold Obligations.LaunchAfterInit
  intro c a b ha hb
  obtain ⟨e, htx⟩ := resolveRate_of_listed ha none
  obtain ⟨f, hrx⟩ := resolveRate_of_listed hb none
  refine ⟨_, exec_init_of_uninitialised a b rfl, ?_, ?_⟩
  · show Result.rates (resolveRate c a none).2 (resolveRate c b none).2 = _
    rw [htx, hrx]
  · exact {
      inited := rfl
      cfgTx := congrArg (Option.isSome ∘ Prod.fst) htx
      cfgRx := congrArg (Option.isSome ∘ Prod.fst) hrx
      txIdle := rfl
      rxIdle := rfl
      txDisarmed := rfl
      rxDisarmed := rfl
      edgeEnabled := rfl
      ringEmpty := rfl
      sequencer := rfl
      queueEmpty := rfl
      rxMark := rfl
      txMark := rfl }

end Sys2Proof.Proofs
end
